-- ==== Sys2Proof/Word.lean ====
section
/-! DEFINITION. The word types of SSCORE: bytes, 32-bit words, 12-bit port offsets. -/

namespace Sys2Proof

/-- An unsigned 8-bit value, 0..255: field elements, counts, table and memory entries
(00_scope.md R9, 30_encoding.md R56). -/
abbrev Byte := BitVec 8

/-- A 32-bit word: a command word, or the data of one host transaction
(20_memory.md R37, 30_encoding.md R54). -/
abbrev Word := BitVec 32

/-- A byte offset within the block's 4 KiB window (20_memory.md R37). -/
abbrev Offset := BitVec 12

end Sys2Proof
end

