-- ==== Sys2Proof/Config.lean ====
section
/-! DEFINITION. What is fixed for the machine: the parameters of 00_scope.md R7, and the open
parameter BASE_ADDR of R8. ENTROPY, the other open value a step can see, arrives as events
(Machine/State.lean); INIT_LATENCY and CMD_LATENCY are time, which the model does not keep (R124). -/

namespace Sys2Proof.Config

/-- The reduction polynomial x^8 + x^4 + x^3 + x^2 + 1 (R7, 40_field.md R64). -/
def modulus : BitVec 9 := 0x11D

/-- The generator 0x02 (R7, 40_field.md R64). -/
def generator : Byte := 0x02

/-- The constant content of the ID register (10_state.md R17). -/
def idValue : Word := 0x53530100

/-- The number of the 4 KiB page at which the host's system map places the window: an open
parameter (R8, "4 KiB aligned; outside the block"). A free value: it has no body. -/
opaque basePage : Nat

/-- BASE_ADDR (R8). -/
def baseAddr : Nat := 0x1000 * basePage

end Sys2Proof.Config
end

