-- ==== Sys2Proof/Syntax.lean ====
section
/-! DEFINITION. The commands of SSCORE (30_encoding.md R57) and the assembler's lines (R61, R62). -/

namespace Sys2Proof

/-- One command, with the operands its row of R57 gives it, in the order A, B, C. A reserved field
is no operand. Every operand is an unsigned byte used as is (R56). -/
inductive Instr where
  /-- NOP (R75). -/
  | nop
  /-- ADD a, b (R76). -/
  | add (a b : Byte)
  /-- SUB a, b (R77). -/
  | sub (a b : Byte)
  /-- MUL a, b (R78). -/
  | mul (a b : Byte)
  /-- DIV a, b (R79). -/
  | div (a b : Byte)
  /-- POW a, e (R80). -/
  | pow (a e : Byte)
  /-- EXP i (R81). -/
  | exp (i : Byte)
  /-- LOG v (R82). -/
  | log (v : Byte)
  /-- GENPOLY k, secret (R87). -/
  | genpoly (k secret : Byte)
  /-- PEVAL k, x (R88). -/
  | peval (k x : Byte)
  /-- EVSH k, n (R89). -/
  | evsh (k n : Byte)
  /-- GENSH k, n, secret (R90). -/
  | gensh (k n secret : Byte)
  /-- RECON k, m (R91). -/
  | recon (k m : Byte)
  /-- GENSUB k, m (R93). -/
  | gensub (k m : Byte)
  /-- COMBINE x, y, s (R94). -/
  | combine (x y count : Byte)
  deriving DecidableEq, Repr

/-- The mnemonics the assembler knows: the fifteen of R57 and the pseudo-instructions of R62. -/
inductive AsmOp where
  | nop | add | sub | mul | div | pow | exp | log
  | genpoly | peval | evsh | gensh | recon | gensub | combine
  | inv | sqr | movr | neg
  deriving DecidableEq, Repr

/-- One line of assembler: a mnemonic and its operands as written, op1 first (R61). -/
structure AsmLine where
  op : AsmOp
  operands : List Nat
  deriving DecidableEq, Repr

end Sys2Proof
end

