-- ==== Sys2Proof/WellFormed.lean ====
section
/-! DEFINITION. Which assembler lines the assembler takes (30_encoding.md R61): the right number of
operands, each in 0..255. An `Instr` needs no check of its own: its operands are bytes by type
(R56; entry 10), so every term of it is a command of R57. -/

namespace Sys2Proof

/-- How many operands a mnemonic takes (R61, R62). -/
def AsmOp.arity : AsmOp → Nat
  | .nop => 0
  | .exp | .log | .inv | .sqr | .movr | .neg => 1
  | .add | .sub | .mul | .div | .pow | .genpoly | .peval | .evsh | .recon | .gensub => 2
  | .gensh | .combine => 3

/-- The operand count is the mnemonic's (R61). -/
def AsmLine.countOk (l : AsmLine) : Bool := l.operands.length == l.op.arity

/-- No operand lies outside 0..255 (R61: "rejects an operand outside 0..255"). -/
def AsmLine.rangeOk (l : AsmLine) : Bool := l.operands.all (· < 256)

/-- A line the assembler takes (R61). -/
def AsmLine.wf (l : AsmLine) : Bool := l.countOk && l.rangeOk

/-- Every command is well formed: R56 bounds each operand to 0..255, which its type says. -/
def Instr.wf : Instr → Bool := fun _ => true

end Sys2Proof
end

