-- ==== Sys2Proof/Decode.lean ====
section
/-! DEFINITION. The command word: its fields (30_encoding.md R54), the decoder (R55, R57, R58), the
encoder, the opcode map as rows of match and mask (R57), and the assembler (R61, R62). -/

namespace Sys2Proof

/-- OP = w[7:0] (R54). -/
def fieldOP (w : Word) : Byte := w.extractLsb' 0 8
/-- A = w[15:8] (R54). -/
def fieldA (w : Word) : Byte := w.extractLsb' 8 8
/-- B = w[23:16] (R54). -/
def fieldB (w : Word) : Byte := w.extractLsb' 16 8
/-- C = w[31:24] (R54). -/
def fieldC (w : Word) : Byte := w.extractLsb' 24 8

/-- The one command format {C, B, A, OP} (R54). -/
def packWord (c b a op : Byte) : Word := c ++ b ++ a ++ op

/-- Why a word is illegal (R58). -/
inductive DecodeError where
  /-- Item 1 of R58: OP is not an OP value of R57. -/
  | reservedOpcode (op : Byte)
  /-- Item 2 of R58: a field that the OP's row reserves is nonzero. -/
  | reservedField (op : Byte)
  deriving DecidableEq, Repr

/-- `i` if the reserved fields are zero, else the rejection of R58 item 2. -/
def checkReserved (op : Byte) (zero : Bool) (i : Instr) : Except DecodeError Instr :=
  if zero then .ok i else .error (.reservedField op)

/-- The decoder: OP selects the row, then the row's reserved fields are checked (R55, R57, R58;
60_exceptions.md R101: reserved opcode first). -/
def decode (w : Word) : Except DecodeError Instr :=
  let op := fieldOP w
  let a := fieldA w
  let b := fieldB w
  let c := fieldC w
  match op.toNat with
  | 0x00 => checkReserved op (a == 0 && b == 0 && c == 0) .nop
  | 0x01 => checkReserved op (c == 0) (.add a b)
  | 0x02 => checkReserved op (c == 0) (.sub a b)
  | 0x03 => checkReserved op (c == 0) (.mul a b)
  | 0x04 => checkReserved op (c == 0) (.div a b)
  | 0x05 => checkReserved op (c == 0) (.pow a b)
  | 0x06 => checkReserved op (b == 0 && c == 0) (.exp a)
  | 0x07 => checkReserved op (b == 0 && c == 0) (.log a)
  | 0x10 => checkReserved op (c == 0) (.genpoly a b)
  | 0x11 => checkReserved op (c == 0) (.peval a b)
  | 0x12 => checkReserved op (c == 0) (.evsh a b)
  | 0x13 => .ok (.gensh a b c)
  | 0x20 => checkReserved op (c == 0) (.recon a b)
  | 0x30 => checkReserved op (c == 0) (.gensub a b)
  | 0x31 => .ok (.combine a b c)
  | _ => .error (.reservedOpcode op)

/-- The encoder: R57's OP value, the operands in A, B, C, and 0x00 in every reserved field. -/
def encode : Instr → Word
  | .nop => packWord 0 0 0 0x00
  | .add a b => packWord 0 b a 0x01
  | .sub a b => packWord 0 b a 0x02
  | .mul a b => packWord 0 b a 0x03
  | .div a b => packWord 0 b a 0x04
  | .pow a e => packWord 0 e a 0x05
  | .exp i => packWord 0 0 i 0x06
  | .log v => packWord 0 0 v 0x07
  | .genpoly k secret => packWord 0 secret k 0x10
  | .peval k x => packWord 0 x k 0x11
  | .evsh k n => packWord 0 n k 0x12
  | .gensh k n secret => packWord secret n k 0x13
  | .recon k m => packWord 0 m k 0x20
  | .gensub k m => packWord 0 m k 0x30
  | .combine x y count => packWord count y x 0x31

/-- A row of the opcode map (R57): its match and its mask. -/
structure OpcodeRow where
  bits : Word
  mask : Word
  deriving DecidableEq, Repr

/-- "A word w encodes the row's command when (w AND mask) == match" (R57). -/
def OpcodeRow.hits (r : OpcodeRow) (w : Word) : Bool := w &&& r.mask == r.bits

/-- The match and mask columns of R57, in the table's order. -/
def opcodeMap : List OpcodeRow :=
  [⟨0x00000000, 0xFFFFFFFF⟩, ⟨0x00000001, 0xFF0000FF⟩, ⟨0x00000002, 0xFF0000FF⟩,
   ⟨0x00000003, 0xFF0000FF⟩, ⟨0x00000004, 0xFF0000FF⟩, ⟨0x00000005, 0xFF0000FF⟩,
   ⟨0x00000006, 0xFFFF00FF⟩, ⟨0x00000007, 0xFFFF00FF⟩, ⟨0x00000010, 0xFF0000FF⟩,
   ⟨0x00000011, 0xFF0000FF⟩, ⟨0x00000012, 0xFF0000FF⟩, ⟨0x00000013, 0x000000FF⟩,
   ⟨0x00000020, 0xFF0000FF⟩, ⟨0x00000030, 0xFF0000FF⟩, ⟨0x00000031, 0x000000FF⟩]

/-- The row of R57 a command belongs to, by its place in `opcodeMap`. -/
def Instr.rowIndex : Instr → Nat
  | .nop => 0
  | .add _ _ => 1
  | .sub _ _ => 2
  | .mul _ _ => 3
  | .div _ _ => 4
  | .pow _ _ => 5
  | .exp _ => 6
  | .log _ => 7
  | .genpoly _ _ => 8
  | .peval _ _ => 9
  | .evsh _ _ => 10
  | .gensh _ _ _ => 11
  | .recon _ _ => 12
  | .gensub _ _ => 13
  | .combine _ _ _ => 14

/-- The assembler (R61), with the pseudo-instructions expanded as R62 says; it rejects a line that is
not well formed. -/
def assemble (l : AsmLine) : Option Instr :=
  if l.wf then
    match l.op, l.operands.map (BitVec.ofNat 8) with
    | .nop, [] => some .nop
    | .add, [a, b] => some (.add a b)
    | .sub, [a, b] => some (.sub a b)
    | .mul, [a, b] => some (.mul a b)
    | .div, [a, b] => some (.div a b)
    | .pow, [a, e] => some (.pow a e)
    | .exp, [i] => some (.exp i)
    | .log, [v] => some (.log v)
    | .genpoly, [k, secret] => some (.genpoly k secret)
    | .peval, [k, x] => some (.peval k x)
    | .evsh, [k, n] => some (.evsh k n)
    | .gensh, [k, n, secret] => some (.gensh k n secret)
    | .recon, [k, m] => some (.recon k m)
    | .gensub, [k, m] => some (.gensub k m)
    | .combine, [x, y, count] => some (.combine x y count)
    | .inv, [a] => some (.div 0x01 a)
    | .sqr, [a] => some (.mul a a)
    | .movr, [a] => some (.add a 0x00)
    | .neg, [a] => some (.sub 0x00 a)
    | _, _ => none
  else none

/-- The decoder on a row's word, numbered as spec/opcode_table.json numbers it: a command is one
32-bit word, so its bits above `nbits` are zero and a word that does not fit in 32 bits is no
command (entry 11). -/
def decodeTableWord (nbits w : Nat) : Option Instr :=
  let v := w % 2 ^ nbits
  if v < 2 ^ 32 then
    match decode (BitVec.ofNat 32 v) with
    | .ok i => some i
    | .error _ => none
  else none

end Sys2Proof
end

