-- ==== Sys2Proof/Machine/State.lean ====
section
/-! DEFINITION. The state of one SSCORE instance (10_state.md R16), as plain data, and its value right
after reset (70_reset_and_hazards.md R112). -/

namespace Sys2Proof.Machine

/-- A 256 x 8 memory or table: the entries that differ from `0x00`, by index, indexes strictly
rising (R25 to R30; entry 2). -/
structure Memory where
  cells : List Host.Cell
  deriving DecidableEq, Repr

/-- The six memories and tables that the address map exposes (20_memory.md R38). -/
inductive MemId where
  /-- The polynomial coefficient memory (R25). -/
  | coef
  /-- The x-coordinate memory (R26). -/
  | xs
  /-- The y-value memory (R27). -/
  | ys
  /-- The subshare memory (R28). -/
  | sub
  /-- The exponent table (R29). -/
  | exp
  /-- The logarithm table (R30). -/
  | log
  deriving DecidableEq, Repr

/-- The outcome codes that a completed command can leave in STATUS.ERRCODE (60_exceptions.md R98).
0x8..0xF are reserved and never produced, so they have no constructor. -/
inductive ErrCode where
  | ok
  | invalidThreshold
  | thresholdExceedsShareCount
  | tooFewPlayers
  | insufficientShares
  | divisionByZero
  | emptySubshareSet
  | illegalCommand
  deriving DecidableEq, Repr

/-- The engine's phase (R31); `exec w` holds the in-flight command word. -/
inductive Phase where
  | init
  | idle
  | exec (w : Word)
  deriving DecidableEq, Repr

/-- One move of an agent outside the engine, or the engine's turn (00_scope.md R6). An event carries
the draws of R12: the bytes of the entropy port, and the value a window read returns while BUSY. -/
inductive Event where
  /-- The host reads offset `off`; `draw` is what the port returns should a window read find the
  engine busy (R118). -/
  | hostRead (off : Offset) (draw : Word)
  /-- The host writes the word `v` at offset `off`. -/
  | hostWrite (off : Offset) (v : Word)
  /-- The block's reset input (R112). -/
  | hardwareReset
  /-- The entropy source transfers one byte (R35). -/
  | entropy (b : Byte)
  /-- The engine gets its turn: init completes, or the command in flight completes (R113, R34). -/
  | engine
  deriving DecidableEq, Repr

/-- What the port answers to a transaction: an error or OK response, and the data of a read
(20_memory.md R37, R41). -/
inductive Response where
  | read (error : Bool) (data : Word)
  | write (error : Bool)
  deriving DecidableEq, Repr

/-- Why the machine stops. No rule of the spec stops SSCORE: it has no traps (60_exceptions.md R97),
a failing command completes with an error code (R99), and a stalled one waits (R119). The type has
no constructor, so no step can end in a fault. -/
inductive Fault where
  deriving DecidableEq, Repr

/-- Why an instruction has no meaning. -/
inductive Refusal where
  /-- Raised only by an arm of `exec` whose instruction is not modelled yet; safe. No arm raises it. -/
  | notModelled (mnemonic : String)
  deriving DecidableEq, Repr

/-- The state of one SSCORE (R16). READY, BUSY, ERR, irq and ID have no storage (R17, R20, R21, R36). -/
structure State where
  /-- CTRL.IE (R18). -/
  ie : Bool
  /-- STATUS.DONE (R19). -/
  done : Bool
  /-- STATUS.OVR (R19). -/
  ovr : Bool
  /-- STATUS.ERRCODE (R19). -/
  errcode : ErrCode
  /-- RESULT.RY (R22). -/
  ry : Byte
  /-- RESULT.RX (R22). -/
  rx : Byte
  /-- COEF (R25). -/
  coef : Memory
  /-- XS (R26). -/
  xs : Memory
  /-- YS (R27). -/
  ys : Memory
  /-- SUB (R28). -/
  sub : Memory
  /-- EXP (R29). -/
  expT : Memory
  /-- LOG (R30). -/
  logT : Memory
  /-- The phase and the in-flight command (R31). -/
  phase : Phase
  /-- The entropy bytes taken so far for the command in flight, oldest first (R35; entry 4). -/
  taken : List Byte
  /-- The model's own: the moves still to come, next first (R6; entry 1). -/
  events : List Event
  /-- The model's own: the response to the latest host transaction (R37; entry 6). -/
  resp : Option Response
  deriving DecidableEq, Repr

/-- The machine right after reset (R112): phase INIT, flags and RESULT zero. The contents of the
memories and tables, which R112 leaves unspecified, are entry 2; `events` and `resp` are entries 1
and 6. -/
def State.reset : State where
  ie := false
  done := false
  ovr := false
  errcode := .ok
  ry := 0
  rx := 0
  coef := ⟨[]⟩
  xs := ⟨[]⟩
  ys := ⟨[]⟩
  sub := ⟨[]⟩
  expT := ⟨[]⟩
  logT := ⟨[]⟩
  phase := .init
  taken := []
  events := []
  resp := none

end Sys2Proof.Machine
end

