-- ==== Sys2Proof/Machine/Ops.lean ====
section
/-! DEFINITION. The named operations over memories, registers and the engine's state: reading and
writing entries, the entropy draws, acceptance, completion, failure and reset. -/

namespace Sys2Proof.Machine

/-! ### Memories -/

/-- What an entry that is not listed reads as: 0x00, what init leaves in the data memories (R113). -/
def Memory.unlisted : Byte := 0x00

/-- The memory whose 256 entries are all 0x00. -/
def Memory.zero : Memory := ⟨[]⟩

/-- The byte at key `k` of a list of cells. -/
def findCell : List Host.Cell → Nat → Byte
  | [], _ => Memory.unlisted
  | (a, b) :: cs, k => if a = k then b else findCell cs k

/-- `cs` with the byte `v` at key `k`, in canonical form: keys rise, no cell holds the unlisted byte. -/
def putCell : List Host.Cell → Nat → Byte → List Host.Cell
  | [], k, v => if v = Memory.unlisted then [] else [(k, v)]
  | (a, b) :: cs, k, v =>
    if k < a then (if v = Memory.unlisted then (a, b) :: cs else (k, v) :: (a, b) :: cs)
    else if k = a then (if v = Memory.unlisted then cs else (k, v) :: cs)
    else (a, b) :: putCell cs k v

/-- MEM[i] (00_scope.md R11). -/
def Memory.read (m : Memory) (i : Byte) : Byte := findCell m.cells i.toNat

/-- MEM[i] <- v (00_scope.md R11). -/
def Memory.write (m : Memory) (i v : Byte) : Memory := ⟨putCell m.cells i.toNat v⟩

/-- MEM[j] <- v for each `v` of a list, at `j`, `j + 1`, ... in that order. -/
def Memory.writeSeq (m : Memory) : Nat → List Byte → Memory
  | _, [] => m
  | j, v :: vs => (m.write (BitVec.ofNat 8 j) v).writeSeq (j + 1) vs

/-- Keys at least `lo`, strictly rising, below 256; no cell holds the unlisted byte. -/
def cellsWf : Nat → List Host.Cell → Bool
  | _, [] => true
  | lo, (a, b) :: cs => decide (lo ≤ a) && decide (a < 256) && b != Memory.unlisted && cellsWf (a + 1) cs

/-- The canonical form: equal memories are equal data. -/
def Memory.wf (m : Memory) : Bool := cellsWf 0 m.cells

/-- The memory or table under one name of the address map (R38). -/
def State.mem (s : State) : MemId → Memory
  | .coef => s.coef
  | .xs => s.xs
  | .ys => s.ys
  | .sub => s.sub
  | .exp => s.expT
  | .log => s.logT

/-- The state with one memory or table replaced. -/
def State.setMem (s : State) (id : MemId) (m : Memory) : State :=
  match id with
  | .coef => { s with coef := m }
  | .xs => { s with xs := m }
  | .ys => { s with ys := m }
  | .sub => { s with sub := m }
  | .exp => { s with expT := m }
  | .log => { s with logT := m }

/-! ### Registers -/

/-- RESULT.RX <- x, RESULT.RY <- y (R11, R22). -/
def State.setResult (s : State) (x y : Byte) : State := { s with rx := x, ry := y }

/-! ### Entropy -/

/-- draw_nonzero() over the bytes the port has delivered: 0x00 is discarded, the next other byte is
the draw; none if no such byte has arrived (41_polynomial.md R84). -/
def drawNonzero : List Byte → Option (Byte × List Byte)
  | [] => none
  | b :: bs => if b = 0 then drawNonzero bs else some (b, bs)

/-- `n` draws in order, coefficients 1 first; none while too few nonzero bytes have arrived (R84). -/
def drawCoeffs : Nat → List Byte → Option (List Byte)
  | 0, _ => some []
  | n + 1, bs =>
    match drawNonzero bs with
    | none => none
    | some (b, rest) =>
      match drawCoeffs n rest with
      | none => none
      | some cs => some (b :: cs)

/-! ### The command life cycle -/

/-- Acceptance of the word `w` (R33). The new command has taken no entropy yet. -/
def State.accept (s : State) (w : Word) : State :=
  { s with done := false, errcode := .ok, phase := .exec w, taken := [] }

/-- complete(): the end of a successful completion, after the command's writes (R11, R34 item 4). -/
def State.complete (s : State) : State :=
  { s with errcode := .ok, done := true, phase := .idle, taken := [] }

/-- fail(E): what takes the place of an exception (60_exceptions.md R97, R99). Only STATUS and the
phase change; nothing is saved and there is no handler (R103). -/
def State.failWith (s : State) (e : ErrCode) : State :=
  { s with errcode := e, done := true, phase := .idle, taken := [] }

/-- The host's acknowledgement, SSCORE's only analogue of a return (R104): a STATUS write clears DONE
where bit 2 of the word is 1 and OVR where bit 4 is 1, and nothing else (R19). -/
def State.writeStatus (s : State) (v : Word) : State :=
  { s with done := s.done && !v.getLsbD 2, ovr := s.ovr && !v.getLsbD 4 }

/-- A command whose draws have not all arrived: completion is not enabled, so nothing changes and the
phase stays EXEC (R34, 70_reset_and_hazards.md R119; entry 5). -/
def State.awaitEntropy (s : State) : State := s

/-- The reset step of R112, hardware or soft. The memories are left for init to overwrite; the bytes
taken for a discarded command are gone. -/
def State.resetStep (s : State) : State :=
  { s with ie := false, done := false, ovr := false, errcode := .ok, ry := 0, rx := 0,
           phase := .init, taken := [] }

end Sys2Proof.Machine
end

