-- ==== Sys2Proof/Machine/Operands.lean ====
section
/-! DEFINITION. The operand forms of 30_encoding.md R56 and the operand checks of the command rules.
A field element and a table index are the byte itself; an exponent and a count are integers. -/

namespace Sys2Proof.Machine

/-- A count field k, n, m or s as an integer 0..255 (R56). -/
def count (b : Byte) : Nat := b.toNat

/-- The exponent field e as an integer 0..255 (R56). -/
def exponent (b : Byte) : Nat := b.toNat

/-- Entry number `j` of a memory; every index a command forms is at most 254 (20_memory.md R46). -/
def entry (j : Nat) : Byte := BitVec.ofNat 8 j

/-- The x-coordinates 1..n of share generation, in order (41_polynomial.md R89). -/
def abscissas (n : Nat) : List Byte := (List.range n).map fun i => BitVec.ofNat 8 (i + 1)

/-- GENPOLY and PEVAL: k = 0 (R87, R88). -/
def checkK (k : Byte) : Option ErrCode := if k = 0 then some .invalidThreshold else none

/-- check_kn of EVSH and GENSH (41_polynomial.md R86). -/
def checkKn (k n : Byte) : Option ErrCode :=
  if k = 0 ∨ n = 0 then some .invalidThreshold
  else if count n < count k then some .thresholdExceedsShareCount
  else none

/-- RECON's checks before the interpolation (42_interpolation.md R91). -/
def checkShares (k m : Byte) : Option ErrCode :=
  if k = 0 then some .invalidThreshold
  else if count m < count k then some .insufficientShares
  else none

/-- GENSUB's checks (43_renewal.md R93). -/
def checkPlayers (k m : Byte) : Option ErrCode :=
  if k = 0 ∨ m = 0 then some .invalidThreshold
  else if count m < count k then some .tooFewPlayers
  else none

/-- COMBINE's check (43_renewal.md R94). -/
def checkSubshares (s : Byte) : Option ErrCode := if s = 0 then some .emptySubshareSet else none

/-- The draws of a command with threshold k, whose checks came out as `c`: k - 1, and none at all
where a check failed (41_polynomial.md R84). -/
def drawsAfter (c : Option ErrCode) (k : Byte) : Nat :=
  match c with
  | some _ => 0
  | none => count k - 1

/-- How many nonzero entropy bytes a command takes (R84: GENPOLY, GENSH and GENSUB only). -/
def draws : Instr → Nat
  | .nop => 0
  | .add _ _ => 0
  | .sub _ _ => 0
  | .mul _ _ => 0
  | .div _ _ => 0
  | .pow _ _ => 0
  | .exp _ => 0
  | .log _ => 0
  | .genpoly k _ => drawsAfter (checkK k) k
  | .peval _ _ => 0
  | .evsh _ _ => 0
  | .gensh k n _ => drawsAfter (checkKn k n) k
  | .recon _ _ => 0
  | .gensub k m => drawsAfter (checkPlayers k m) k
  | .combine _ _ _ => 0

/-- How many nonzero entropy bytes the command word takes; an illegal word takes none (R58). -/
def drawsOfWord (w : Word) : Nat :=
  match decode w with
  | .ok i => draws i
  | .error _ => 0

end Sys2Proof.Machine
end

