-- ==== Sys2Proof/Machine/Gf.lean ====
section
/-! DEFINITION. GF(2^8) arithmetic over the EXP and LOG tables, and how the tables are built
(40_field.md R64 to R73). -/

namespace Sys2Proof.Machine

/-! ### Russian-peasant multiplication and the tables -/

/-- One doubling: `aa << 1`, reduced by 0x11D where bit 8 is set (R65). -/
def gfDouble (aa : Byte) : Byte :=
  let t : BitVec 9 := aa.setWidth 9 <<< 1
  (if t.getLsbD 8 then t ^^^ Config.modulus else t).setWidth 8

/-- The loop of rp_mul; it runs at most 8 times, which bounds the first argument (R65). -/
def rpLoop : Nat → Byte → Byte → Byte → Byte
  | 0, p, _, _ => p
  | n + 1, p, aa, bb =>
    if bb = 0 then p
    else rpLoop n (if bb.getLsbD 0 then p ^^^ aa else p) (gfDouble aa) (bb >>> 1)

/-- rp_mul(a, b) (R65). -/
def rpMul (a b : Byte) : Byte := rpLoop 8 0x00 a b

/-- The loop of the table build from step `i`: EXP[i] <- x, LOG[x] <- i for i up to 254,
x <- rp_mul(x, 0x02) (R66). -/
def buildLoop : Nat → Nat → Byte → Memory → Memory → Memory × Memory
  | 0, _, _, e, l => (e, l)
  | n + 1, i, x, e, l =>
    buildLoop n (i + 1) (rpMul x Config.generator) (e.write (entry i) x)
      (if i ≤ 254 then l.write x (entry i) else l)

/-- The 256 steps of R66 and LOG[0] <- 0x00, over empty tables. -/
def buildTables : Memory × Memory :=
  let t := buildLoop 256 0 0x01 Memory.zero Memory.zero
  (t.1, t.2.write 0x00 0x00)

/-! ### The field operations -/

/-- The two tables a field operation reads. -/
structure Tables where
  exp : Memory
  log : Memory
  deriving DecidableEq, Repr

/-- The tables of a state, as they stand (10_state.md R34 item 1). -/
def State.tables (s : State) : Tables := ⟨s.expT, s.logT⟩

/-- gf_add (R70). -/
def gfAdd (a b : Byte) : Byte := a ^^^ b

/-- gf_sub (R70). -/
def gfSub (a b : Byte) : Byte := a ^^^ b

/-- EXP at an integer index 0..254. -/
def Tables.expAt (t : Tables) (i : Nat) : Byte := t.exp.read (entry i)

/-- LOG as an integer. -/
def Tables.logOf (t : Tables) (v : Byte) : Nat := (t.log.read v).toNat

/-- gf_mul (R71): the zero test comes before the tables. -/
def gfMul (t : Tables) (a b : Byte) : Byte :=
  if a = 0 ∨ b = 0 then 0 else t.expAt ((t.logOf a + t.logOf b) % 255)

/-- gf_div (R72): the zero divisor is tested first. Every LOG entry is at most 254 once the tables
are built (R68), so 255 + LOG[a] - LOG[b] is positive. -/
def gfDiv (t : Tables) (a b : Byte) : Except ErrCode Byte :=
  if b = 0 then .error .divisionByZero
  else if a = 0 then .ok 0
  else .ok (t.expAt ((255 + t.logOf a - t.logOf b) % 255))

/-- gf_pow (R73): repeated multiplication from 0x01. -/
def gfPow (t : Tables) (a : Byte) : Nat → Byte
  | 0 => 0x01
  | e + 1 => gfMul t (gfPow t a e) a

/-- poly_eval(k, x), the power sum over COEF[0..k-1] in rising order (41_polynomial.md R83). -/
def polyEval (t : Tables) (coef : Memory) (x : Byte) : Nat → Byte
  | 0 => 0x00
  | j + 1 => gfAdd (polyEval t coef x j) (gfMul t (coef.read (entry j)) (gfPow t x j))

end Sys2Proof.Machine
end

