-- ==== Sys2Proof/Machine/Field.lean ====
section
/-! DEFINITION. The field family: NOP, ADD, SUB, MUL, DIV, POW, EXP, LOG (40_field.md R75 to R82).
Each meaning is the completion of the command (10_state.md R34). -/

namespace Sys2Proof.Machine

/-- RESULT.RY <- y, RESULT.RX <- 0x00, complete(). -/
def State.completeScalar (s : State) (y : Byte) : State := (s.setResult 0x00 y).complete

/-- NOP (R75). -/
def execNop (s : State) : Host.Outcome State Fault Refusal := .next s.complete

/-- ADD a, b (R76). -/
def execAdd (a b : Byte) (s : State) : Host.Outcome State Fault Refusal :=
  .next (s.completeScalar (gfAdd a b))

/-- SUB a, b (R77). -/
def execSub (a b : Byte) (s : State) : Host.Outcome State Fault Refusal :=
  .next (s.completeScalar (gfSub a b))

/-- MUL a, b (R78). -/
def execMul (a b : Byte) (s : State) : Host.Outcome State Fault Refusal :=
  .next (s.completeScalar (gfMul s.tables a b))

/-- DIV a, b (R79). -/
def execDiv (a b : Byte) (s : State) : Host.Outcome State Fault Refusal :=
  match gfDiv s.tables a b with
  | .error e => .next (s.failWith e)
  | .ok q => .next (s.completeScalar q)

/-- POW a, e (R80). -/
def execPow (a e : Byte) (s : State) : Host.Outcome State Fault Refusal :=
  .next (s.completeScalar (gfPow s.tables a (exponent e)))

/-- EXP i (R81). -/
def execExp (i : Byte) (s : State) : Host.Outcome State Fault Refusal :=
  .next (s.completeScalar (s.expT.read i))

/-- LOG v (R82): LOG 0 returns the stored entry and does not fail. -/
def execLog (v : Byte) (s : State) : Host.Outcome State Fault Refusal :=
  .next (s.completeScalar (s.logT.read v))

end Sys2Proof.Machine
end

