-- ==== Sys2Proof/Machine/Interpolation.lean ====
section
/-! DEFINITION. The reconstruction family: RECON (42_interpolation.md R91). -/

namespace Sys2Proof.Machine

/-- L of share `i` after the factors j = 0..n-1, each j ≠ i giving XS[j] / (XS[j] - XS[i]); it fails
where a difference is zero (R91). -/
def lagrangeWeight (t : Tables) (xs : Memory) (i : Nat) : Nat → Except ErrCode Byte
  | 0 => .ok 0x01
  | j + 1 =>
    match lagrangeWeight t xs i j with
    | .error e => .error e
    | .ok l =>
      if j = i then .ok l
      else
        match gfDiv t (xs.read (entry j)) (gfSub (xs.read (entry j)) (xs.read (entry i))) with
        | .error e => .error e
        | .ok q => .ok (gfMul t l q)

/-- The secret after the shares i = 0..n-1 of the first `k` (R91). -/
def interpolate (t : Tables) (xs ys : Memory) (k : Nat) : Nat → Except ErrCode Byte
  | 0 => .ok 0x00
  | i + 1 =>
    match interpolate t xs ys k i with
    | .error e => .error e
    | .ok secret =>
      match lagrangeWeight t xs i k with
      | .error e => .error e
      | .ok l => .ok (gfAdd secret (gfMul t (ys.read (entry i)) l))

/-- RECON k, m (R91). -/
def execRecon (k m : Byte) (s : State) : Host.Outcome State Fault Refusal :=
  match checkShares k m with
  | some e => .next (s.failWith e)
  | none =>
    match interpolate s.tables s.xs s.ys (count k) (count k) with
    | .error e => .next (s.failWith e)
    | .ok secret => .next ((s.setResult 0x00 secret).complete)

end Sys2Proof.Machine
end

