-- ==== Sys2Proof/Machine/Polynomial.lean ====
section
/-! DEFINITION. The polynomial family: GENPOLY, PEVAL, EVSH, GENSH (41_polynomial.md R83 to R90).
Each meaning is the completion of the command; a command whose draws have not all arrived waits. -/

namespace Sys2Proof.Machine

/-- COEF[0] <- c0, COEF[j] <- the j-th draw for j in 1..k-1, over the COEF as it stands (R87, R90,
43_renewal.md R93). -/
def drawnPolynomial (coef : Memory) (c0 : Byte) (cs : List Byte) : Memory := coef.writeSeq 0 (c0 :: cs)

/-- XS[i-1] <- i and YS[i-1] <- poly_eval(k, i) for i in 1..n, with the polynomial in `coef`
(R89, R90). -/
def State.writeShares (s : State) (coef : Memory) (k n : Nat) : State :=
  { s with
    xs := s.xs.writeSeq 0 (abscissas n)
    ys := s.ys.writeSeq 0 ((abscissas n).map fun x => polyEval s.tables coef x k) }

/-- GENPOLY k, secret (R87). -/
def execGenpoly (k secret : Byte) (s : State) : Host.Outcome State Fault Refusal :=
  match checkK k with
  | some e => .next (s.failWith e)
  | none =>
    match drawCoeffs (count k - 1) s.taken with
    | none => .next s.awaitEntropy
    | some cs => .next ({ s with coef := drawnPolynomial s.coef secret cs }.complete)

/-- PEVAL k, x (R88). -/
def execPeval (k x : Byte) (s : State) : Host.Outcome State Fault Refusal :=
  match checkK k with
  | some e => .next (s.failWith e)
  | none => .next ((s.setResult x (polyEval s.tables s.coef x (count k))).complete)

/-- EVSH k, n (R89). -/
def execEvsh (k n : Byte) (s : State) : Host.Outcome State Fault Refusal :=
  match checkKn k n with
  | some e => .next (s.failWith e)
  | none => .next (s.writeShares s.coef (count k) (count n)).complete

/-- GENSH k, n, secret (R90): the shares are evaluated over the COEF just drawn, and COEF ends all
0x00 (R85, R34 item 1). -/
def execGensh (k n secret : Byte) (s : State) : Host.Outcome State Fault Refusal :=
  match checkKn k n with
  | some e => .next (s.failWith e)
  | none =>
    match drawCoeffs (count k - 1) s.taken with
    | none => .next s.awaitEntropy
    | some cs =>
      .next ({ s.writeShares (drawnPolynomial s.coef secret cs) (count k) (count n) with
               coef := Memory.zero }.complete)

end Sys2Proof.Machine
end

