-- ==== Sys2Proof/Machine/Renewal.lean ====
section
/-! DEFINITION. The renewal family: GENSUB and COMBINE (43_renewal.md R93, R94). -/

namespace Sys2Proof.Machine

/-- SUB[i] <- poly_eval(k, XS[i]) for i in 0..m-1, with the polynomial in `coef` (R93). -/
def subshares (t : Tables) (coef xs : Memory) (k m : Nat) : List Byte :=
  (List.range m).map fun i => polyEval t coef (xs.read (entry i)) k

/-- acc after SUB[0..n-1] have been added to `y` (R94). -/
def foldSubshares (sub : Memory) (y : Byte) : Nat → Byte
  | 0 => y
  | i + 1 => gfAdd (foldSubshares sub y i) (sub.read (entry i))

/-- GENSUB k, m (R93): the constant term is 0x00, and COEF ends all 0x00 (41_polynomial.md R85). -/
def execGensub (k m : Byte) (s : State) : Host.Outcome State Fault Refusal :=
  match checkPlayers k m with
  | some e => .next (s.failWith e)
  | none =>
    match drawCoeffs (count k - 1) s.taken with
    | none => .next s.awaitEntropy
    | some cs =>
      .next ({ s with
               sub := s.sub.writeSeq 0
                 (subshares s.tables (drawnPolynomial s.coef 0x00 cs) s.xs (count k) (count m))
               coef := Memory.zero }.complete)

/-- COMBINE x, y, s (R94). -/
def execCombine (x y cnt : Byte) (s : State) : Host.Outcome State Fault Refusal :=
  match checkSubshares cnt with
  | some e => .next (s.failWith e)
  | none => .next ((s.setResult x (foldSubshares s.sub y (count cnt))).complete)

end Sys2Proof.Machine
end

