-- ==== Sys2Proof/Machine/Dispatch.lean ====
section
/-! DEFINITION. One arm per command: its completion (10_state.md R34). -/

namespace Sys2Proof.Machine

def exec (i : Instr) (s : State) : Host.Outcome State Fault Refusal :=
  match i with
  | .nop => Sys2Proof.Machine.execNop s
  | .add a b => Sys2Proof.Machine.execAdd a b s
  | .sub a b => Sys2Proof.Machine.execSub a b s
  | .mul a b => Sys2Proof.Machine.execMul a b s
  | .div a b => Sys2Proof.Machine.execDiv a b s
  | .pow a e => Sys2Proof.Machine.execPow a e s
  | .exp x => Sys2Proof.Machine.execExp x s
  | .log v => Sys2Proof.Machine.execLog v s
  | .genpoly k secret => Sys2Proof.Machine.execGenpoly k secret s
  | .peval k x => Sys2Proof.Machine.execPeval k x s
  | .evsh k n => Sys2Proof.Machine.execEvsh k n s
  | .gensh k n secret => Sys2Proof.Machine.execGensh k n secret s
  | .recon k m => Sys2Proof.Machine.execRecon k m s
  | .gensub k m => Sys2Proof.Machine.execGensub k m s
  | .combine x y count => Sys2Proof.Machine.execCombine x y count s

end Sys2Proof.Machine
end

