-- ==== Sys2Proof/Machine/Flags.lean ====
section
/-! DEFINITION. The registers as the host reads them and the flags that have no storage of their own:
STATUS, CTRL, RESULT, ID, irq (10_state.md R17 to R24, R36). -/

namespace Sys2Proof.Machine

/-- The 4-bit code of an outcome (60_exceptions.md R98). -/
def ErrCode.code : ErrCode → BitVec 4
  | .ok => 0x0
  | .invalidThreshold => 0x1
  | .thresholdExceedsShareCount => 0x2
  | .tooFewPlayers => 0x3
  | .insufficientShares => 0x4
  | .divisionByZero => 0x5
  | .emptySubshareSet => 0x6
  | .illegalCommand => 0x7

/-- STATUS.READY: the phase is IDLE (R20). -/
def State.ready (s : State) : Bool :=
  match s.phase with
  | .init => false
  | .idle => true
  | .exec _ => false

/-- STATUS.BUSY: the phase is INIT or EXEC (R31). -/
def State.busy (s : State) : Bool :=
  match s.phase with
  | .init => true
  | .idle => false
  | .exec _ => true

/-- STATUS.ERR: ERRCODE is nonzero (R21). -/
def State.err (s : State) : Bool := s.errcode.code != 0

/-- The irq output (R36). -/
def State.irq (s : State) : Bool := s.ie && s.done

/-- One flag as a bit. -/
def bit (b : Bool) : BitVec 1 := BitVec.ofBool b

/-- STATUS as read: ERRCODE in 11:8, OVR 4, ERR 3, DONE 2, BUSY 1, READY 0, the rest zero (R19). -/
def State.statusWord (s : State) : Word :=
  (0 : BitVec 20) ++ s.errcode.code ++ (0 : BitVec 3) ++ bit s.ovr ++ bit s.err ++ bit s.done
    ++ bit s.busy ++ bit s.ready

/-- CTRL as read: IE in bit 0; SRST and the reserved bits read zero (R18, R38). -/
def State.ctrlWord (s : State) : Word := (0 : BitVec 31) ++ bit s.ie

/-- RESULT as read: RX in 15:8, RY in 7:0 (R22). -/
def State.resultWord (s : State) : Word := (0 : BitVec 16) ++ s.rx ++ s.ry

/-- A CTRL write: bit 1 set is a soft reset, whatever bit 0 holds; else IE takes bit 0. In every
phase (R18, 70_reset_and_hazards.md R115). -/
def State.writeCtrl (s : State) (v : Word) : State :=
  if v.getLsbD 1 then s.resetStep else { s with ie := v.getLsbD 0 }

end Sys2Proof.Machine
end

