-- ==== Sys2Proof/Machine/HostPort.lean ====
section
/-! DEFINITION. The host port: the address map, reads, writes, error responses (20_memory.md R37 to
R43, 70_reset_and_hazards.md R117, R118), and the host notation of 30_encoding.md R63. -/

namespace Sys2Proof.Machine

/-- What an offset names (R38, R40). A window location carries the index of its lowest entry. -/
inductive Loc where
  | id
  | ctrl
  | status
  | cmd
  | result
  | window (m : MemId) (base : Byte)
  | reserved
  | misaligned
  deriving DecidableEq, Repr

/-- The register block, offsets 0x000 to 0x0FC (R38). -/
def registerLoc (low : Nat) : Loc :=
  match low with
  | 0x00 => .id
  | 0x04 => .ctrl
  | 0x08 => .status
  | 0x0C => .cmd
  | 0x10 => .result
  | _ => .reserved

/-- The address map (R38); a misaligned offset names nothing (R40). Bits 11:8 select the window and
bits 7:0, at a multiple of 4, are the index of entry 4*w (R39). -/
def portLoc (off : Offset) : Loc :=
  let low := off.extractLsb' 0 8
  if off.extractLsb' 0 2 != 0 then .misaligned
  else
    match (off.extractLsb' 8 4).toNat with
    | 0 => registerLoc low.toNat
    | 1 => .window .coef low
    | 2 => .window .xs low
    | 3 => .window .ys low
    | 4 => .window .sub low
    | 5 => .window .exp low
    | 6 => .window .log low
    | _ => .reserved

/-- The packed window word: entry `base` in bits 7:0 up to entry `base + 3` in bits 31:24 (R39). -/
def Memory.readWord (m : Memory) (base : Byte) : Word :=
  m.read (base + 3) ++ m.read (base + 2) ++ m.read (base + 1) ++ m.read base

/-- The four entries of a window write, in one step (R43). -/
def Memory.writeWord (m : Memory) (base : Byte) (v : Word) : Memory :=
  (((m.write base (v.extractLsb' 0 8)).write (base + 1) (v.extractLsb' 8 8)).write
    (base + 2) (v.extractLsb' 16 8)).write (base + 3) (v.extractLsb' 24 8)

/-- The host cannot write the tables (R41 item 3). -/
def MemId.readOnly : MemId → Bool
  | .coef => false
  | .xs => false
  | .ys => false
  | .sub => false
  | .exp => true
  | .log => true

/-- MemRead(off, 4): what the port answers (R38, R41, R42). While BUSY a window read returns the
draw (R118). -/
def State.readResponse (s : State) (off : Offset) (draw : Word) : Response :=
  match portLoc off with
  | .id => .read false Config.idValue
  | .ctrl => .read false s.ctrlWord
  | .status => .read false s.statusWord
  | .cmd => .read false 0
  | .result => .read false s.resultWord
  | .window m base => .read false (if s.busy then draw else (s.mem m).readWord base)
  | .reserved => .read true 0
  | .misaligned => .read true 0

/-- A host read changes nothing but the response (R38: no location has a read side effect). -/
def State.hostRead (s : State) (off : Offset) (draw : Word) : State :=
  { s with resp := some (s.readResponse off draw) }

/-- A write that is dropped because the engine is busy (R117). -/
def State.dropWrite (s : State) : State := { s with ovr := true }

/-- Whether a write to this location gets an error response (R41). -/
def Loc.writeError : Loc → Bool
  | .id => true
  | .ctrl => false
  | .status => false
  | .cmd => false
  | .result => true
  | .window m _ => m.readOnly
  | .reserved => true
  | .misaligned => true

/-- The effect of a write on the block (R18, R19, R23, R43, R117); a write with an error response
changes no state (R41). -/
def State.writeLoc (s : State) (l : Loc) (v : Word) : State :=
  match l with
  | .id => s
  | .ctrl => s.writeCtrl v
  | .status => s.writeStatus v
  | .cmd => if s.busy then s.dropWrite else s.accept v
  | .result => s
  | .window m base =>
    if m.readOnly then s
    else if s.busy then s.dropWrite
    else s.setMem m ((s.mem m).writeWord base v)
  | .reserved => s
  | .misaligned => s

/-- MemWrite(off, 4, v): the effect and the response (R37, R38). -/
def State.hostWrite (s : State) (off : Offset) (v : Word) : State :=
  { s.writeLoc (portLoc off) v with resp := some (.write (portLoc off).writeError) }

/-- The offset the block sees for a system address inside its window (R8, R37). -/
def hostOffset (addr : Nat) : Option Offset :=
  if Config.baseAddr ≤ addr ∧ addr < Config.baseAddr + 0x1000 then
    some (BitVec.ofNat 12 (addr - Config.baseAddr))
  else none

/-- WR off, v (30_encoding.md R63). -/
def wr (off : Offset) (v : Word) : Event := .hostWrite off v

/-- RD off (R63), with the draw the port would return while BUSY. -/
def rd (off : Offset) (draw : Word) : Event := .hostRead off draw

/-- ISSUE <command> (R63). -/
def issue (i : Instr) : Event := wr 0x00C (encode i)

/-- ACK (R63): clears DONE and OVR. -/
def ack : Event := wr 0x008 0x00000014

/-- WAIT (R63) ends when a read of STATUS shows BUSY = 0: whether a response does. -/
def waitOver : Response → Bool
  | .read _ data => !data.getLsbD 1
  | .write _ => false

end Sys2Proof.Machine
end

