-- ==== Sys2Proof/Machine/Engine.lean ====
section
/-! DEFINITION. The engine's own steps, the entropy port, and which agent moves next
(00_scope.md R6, 10_state.md R31, R34, R35, 70_reset_and_hazards.md R113). -/

namespace Sys2Proof.Machine

/-- Init completes: the tables stand as 40_field.md R67 and R68 list them, the data memories are
cleared, the phase is IDLE (R113, R114; entry 12). -/
def State.initComplete (s : State) : State :=
  { s with expT := expTable, logT := logTable, coef := Memory.zero, xs := Memory.zero,
           ys := Memory.zero, sub := Memory.zero, phase := .idle }

/-- The engine takes a byte only while a command in flight still needs a draw (R35). -/
def State.wantsEntropy (s : State) : Bool :=
  match s.phase with
  | .init => false
  | .idle => false
  | .exec w => (drawCoeffs (drawsOfWord w) s.taken).isNone

/-- One transfer on the entropy port: taken if the engine wants it, else not observed and not stored
(R35). -/
def State.takeEntropy (s : State) (b : Byte) : State :=
  if s.wantsEntropy then { s with taken := s.taken ++ [b] } else s

/-- What the next step is: a step that ends in a known state, or the completion of a command. -/
inductive Move where
  | settled (s : State)
  | run (i : Instr) (s : State)
  deriving DecidableEq, Repr

/-- The engine's turn (R31): INIT completes; IDLE has nothing to do (entry 5); EXEC(w) completes w, an
illegal word by fail(IllegalCommand) (30_encoding.md R58). -/
def State.engineMove (s : State) : Move :=
  match s.phase with
  | .init => .settled s.initComplete
  | .idle => .settled s
  | .exec w =>
    match decode w with
    | .ok i => .run i s
    | .error _ => .settled (s.failWith .illegalCommand)

/-- The effect of one event on the block (R6). -/
def State.eventMove (s : State) : Event → Move
  | .hostRead off draw => .settled (s.hostRead off draw)
  | .hostWrite off v => .settled (s.hostWrite off v)
  | .hardwareReset => .settled s.resetStep
  | .entropy b => .settled (s.takeEntropy b)
  | .engine => s.engineMove

/-- The next event moves, and is used up; when none is pending the engine has its turn (R6;
entry 1). -/
def State.nextMove (s : State) : Move :=
  match s.events with
  | [] => s.engineMove
  | e :: rest => { s with events := rest }.eventMove e

/-- The state with the word `w` accepted and in flight and the engine's turn next: what a host's
write of `w` to CMD leads to (R33). In INIT no command can be in flight, so init completes first
(R31; entry 7). -/
def State.placeCommand (s : State) (w : Word) : State :=
  let t : State := match s.phase with
    | .init => s.initComplete
    | .idle => s
    | .exec _ => s
  { t.accept w with events := .engine :: t.events }

end Sys2Proof.Machine
end

