-- ==== Sys2Proof/Machine/Step.lean ====
section
/-! DEFINITION. One step of the block: the next agent's move (00_scope.md R6). -/

namespace Sys2Proof.Machine

/-- One step of SSCORE: a host transaction, a reset, a transfer on the entropy port, or the engine's
turn (R6, R49). -/
def step (s : State) : Host.Outcome State Fault Refusal :=
  match s.nextMove with
  | .settled t => .next t
  | .run i t => exec i t

/-- `s` with the command word of `nbits` bits in flight, so that the next step completes it
(entry 7). -/
def State.withFetchWord (s : State) (nbits w : Nat) : State :=
  s.placeCommand (BitVec.ofNat 32 (w % 2 ^ nbits))

end Sys2Proof.Machine
end

