-- ==== Sys2Proof/Safety.lean ====
section
/-! DEFINITION. What holds of every state of a run, in the terms the claims use. -/

namespace Sys2Proof.Machine

/-- Every memory and table is in its canonical form. -/
def State.memoriesWf (s : State) : Bool :=
  s.coef.wf && s.xs.wf && s.ys.wf && s.sub.wf && s.expT.wf && s.logT.wf

/-- EXP and LOG hold the tables of 40_field.md R67 and R68. -/
abbrev State.tablesBuilt (s : State) : Prop := s.expT = expTable ∧ s.logT = logTable

/-- Outside INIT the tables are built (10_state.md R20, R29, R30). -/
abbrev State.tablesOk (s : State) : Prop := s.phase ≠ .init → s.tablesBuilt

/-- While BUSY no outcome is held: DONE is 0 and ERRCODE is 0 (R33, 70_reset_and_hazards.md R112). -/
abbrev State.outcomeOk (s : State) : Prop := s.busy = true → s.done = false ∧ s.errcode = .ok

/-- In INIT the enable is what the host wrote and RESULT is zero (R114). -/
abbrev State.resultOk (s : State) : Prop := s.phase = .init → s.rx = 0 ∧ s.ry = 0

/-- The entropy bytes held: none unless a command is in flight, and never one more than that command's
draws needed (R35). -/
def State.takenOk (s : State) : Bool :=
  match s.phase with
  | .init => s.taken == []
  | .idle => s.taken == []
  | .exec w => s.taken == [] || (drawCoeffs (drawsOfWord w) s.taken.dropLast).isNone

/-- The invariant of every run: canonical memories, tables built outside INIT, no outcome while BUSY,
RESULT zero in INIT, and no entropy byte held that was not needed. -/
abbrev State.Inv (s : State) : Prop :=
  s.memoriesWf = true ∧ s.tablesOk ∧ s.outcomeOk ∧ s.resultOk ∧ s.takenOk = true

/-- The engine moves next and `rest` is then still to come: its turn is the next event, or no event is
pending. -/
abbrev State.engineNext (s : State) (rest : List Event) : Prop :=
  s.events = .engine :: rest ∨ (s.events = [] ∧ rest = [])

end Sys2Proof.Machine
end

