-- ==== Sys2Proof/Certificates/Slice0/Obligations.lean ====
section
/-! DEFINITION. The statements for the provers: what the numbered rules of spec/ say SSCORE does. The
functions of `Sys2Proof.Claims` say it in the spec's terms, apart from the model's meanings: products by
Russian-peasant multiplication (40_field.md R65), polynomials by Horner's scheme (41_polynomial.md R83),
draws as the nonzero bytes delivered (R84). The fields `events`, `resp` and `taken` are the model's own
(notes/assumptions/1, 4, 6); a statement that names one holds for every value of it. -/

open Sys2Proof Sys2Proof.Machine

namespace Sys2Proof.Claims

/-- `s` after the completion of its command with outcome `e` and no write of the command's own
(10_state.md R34 item 4, 60_exceptions.md R99). -/
abbrev finished (s : State) (e : ErrCode) : State :=
  { s with errcode := e, done := true, phase := .idle, taken := [] }

/-- `s` after a successful completion that wrote RX = `x`, RY = `y` and nothing else. -/
abbrev withResult (s : State) (x y : Byte) : State := finished { s with rx := x, ry := y } .ok

/-- Entry `j` of a memory. -/
def item (m : Memory) (j : Nat) : Byte := m.read (BitVec.ofNat 8 j)

/-- a^e by `e` multiplications from 0x01 (40_field.md R73), with the product of R65. -/
def power (a : Byte) (e : Nat) : Byte := Nat.iterate (fun r => rpMul r a) e 0x01

/-- The value at `x` of the polynomial with coefficients `c 0 .. c (k-1)`, by Horner's scheme. -/
def horner (c : Nat → Byte) (k : Nat) (x : Byte) : Byte :=
  (List.range k).foldr (fun j acc => c j ^^^ rpMul x acc) 0

/-- The XOR of the first `n` entries of a memory. -/
def sumOf (m : Memory) (n : Nat) : Byte := ((List.range n).map (item m)).foldr (· ^^^ ·) 0

/-- The nonzero bytes among those taken, in order (41_polynomial.md R84). -/
def useful (bs : List Byte) : List Byte := bs.filter (· != 0)

/-- The coefficients of a drawn polynomial: the constant term, then the draws in order (R84, R87). -/
def drawn (c0 : Byte) (bs : List Byte) (j : Nat) : Byte := (c0 :: useful bs).getD j 0

/-- The first `k` entries are pairwise distinct. -/
def distinct (m : Memory) (k : Nat) : Prop := ∀ p q, p < q → q < k → item m p ≠ item m q

/-- How many draws a command needs once its operand checks have passed (R84, R86 to R90,
43_renewal.md R93). -/
def drawsNeeded : Instr → Nat
  | .nop | .add _ _ | .sub _ _ | .mul _ _ | .div _ _ | .pow _ _ | .exp _ | .log _ => 0
  | .peval _ _ | .evsh _ _ | .recon _ _ | .combine _ _ _ => 0
  | .genpoly k _ => k.toNat - 1
  | .gensh k n _ => if k.toNat ≤ n.toNat then k.toNat - 1 else 0
  | .gensub k m => if k.toNat ≤ m.toNat then k.toNat - 1 else 0

/-- The draws the command word in flight needs; none if the word is illegal (30_encoding.md R58). -/
def needed (w : Word) : Nat :=
  match decode w with
  | .ok i => drawsNeeded i
  | .error _ => 0

/-- The OP byte of a word, as a number (30_encoding.md R54). -/
abbrev opOf (w : Word) : Nat := (w.extractLsb' 0 8).toNat

/-- The OP value of each mnemonic: its row's, or for a pseudo-instruction its command's
(30_encoding.md R57, R62). -/
def mnemonicOP : AsmOp → Byte
  | .nop => 0x00
  | .add => 0x01
  | .sub => 0x02
  | .mul => 0x03
  | .div => 0x04
  | .pow => 0x05
  | .exp => 0x06
  | .log => 0x07
  | .genpoly => 0x10
  | .peval => 0x11
  | .evsh => 0x12
  | .gensh => 0x13
  | .recon => 0x20
  | .gensub => 0x30
  | .combine => 0x31
  | .inv => 0x04
  | .sqr => 0x03
  | .movr => 0x01
  | .neg => 0x02

/-- The illegal words, as 30_encoding.md R58 lists them; the fields a row reserves are R57's. -/
def illegal (w : Word) : Prop :=
  (0x08 ≤ opOf w ∧ opOf w ≤ 0x0F) ∨ (0x14 ≤ opOf w ∧ opOf w ≤ 0x1F) ∨
  (0x21 ≤ opOf w ∧ opOf w ≤ 0x2F) ∨ 0x32 ≤ opOf w ∨
  (opOf w = 0 ∧ w ≠ 0) ∨
  ((opOf w = 1 ∨ opOf w = 2 ∨ opOf w = 3 ∨ opOf w = 4 ∨ opOf w = 5 ∨ opOf w = 0x10 ∨ opOf w = 0x11 ∨
    opOf w = 0x12 ∨ opOf w = 0x20 ∨ opOf w = 0x30) ∧ w.extractLsb' 24 8 ≠ 0) ∨
  ((opOf w = 6 ∨ opOf w = 7) ∧ (w.extractLsb' 16 8 ≠ 0 ∨ w.extractLsb' 24 8 ≠ 0))

/-- The failure of a command on a state with its draws at hand, in the order of 60_exceptions.md R101;
`none` where it succeeds (R98). -/
def FailsWith (s : State) : Instr → ErrCode → Prop
  | .nop, _ | .add _ _, _ | .sub _ _, _ | .mul _ _, _ | .pow _ _, _ | .exp _, _ | .log _, _ => False
  | .div _ b, e => b = 0 ∧ e = .divisionByZero
  | .genpoly k _, e => k = 0 ∧ e = .invalidThreshold
  | .peval k _, e => k = 0 ∧ e = .invalidThreshold
  | .evsh k n, e => ((k = 0 ∨ n = 0) ∧ e = .invalidThreshold) ∨
      (k ≠ 0 ∧ n ≠ 0 ∧ n.toNat < k.toNat ∧ e = .thresholdExceedsShareCount)
  | .gensh k n _, e => ((k = 0 ∨ n = 0) ∧ e = .invalidThreshold) ∨
      (k ≠ 0 ∧ n ≠ 0 ∧ n.toNat < k.toNat ∧ e = .thresholdExceedsShareCount)
  | .recon k m, e => (k = 0 ∧ e = .invalidThreshold) ∨
      (k ≠ 0 ∧ m.toNat < k.toNat ∧ e = .insufficientShares) ∨
      (k ≠ 0 ∧ k.toNat ≤ m.toNat ∧ ¬ distinct s.xs k.toNat ∧ e = .divisionByZero)
  | .gensub k m, e => ((k = 0 ∨ m = 0) ∧ e = .invalidThreshold) ∨
      (k ≠ 0 ∧ m ≠ 0 ∧ m.toNat < k.toNat ∧ e = .tooFewPlayers)
  | .combine _ _ n, e => n = 0 ∧ e = .emptySubshareSet

/-- The commands that write no memory (R75 to R82, R88, R91, R94). -/
def storesNothing : Instr → Bool
  | .nop | .add _ _ | .sub _ _ | .mul _ _ | .div _ _ | .pow _ _ | .exp _ | .log _ => true
  | .peval _ _ | .recon _ _ | .combine _ _ _ => true
  | .genpoly _ _ | .evsh _ _ | .gensh _ _ _ | .gensub _ _ => false

/-- The commands that write RESULT on success (10_state.md R22). -/
def writesResult : Instr → Bool
  | .add _ _ | .sub _ _ | .mul _ _ | .div _ _ | .pow _ _ | .exp _ | .log _ => true
  | .peval _ _ | .recon _ _ | .combine _ _ _ => true
  | .nop | .genpoly _ _ | .evsh _ _ | .gensh _ _ _ | .gensub _ _ => false

/-- Whether a command stores to entry `i` of a memory (R87, R89, R90, R93, R85). -/
def storesTo : Instr → MemId → Byte → Prop
  | .genpoly k _, .coef, i => i.toNat < k.toNat
  | .evsh _ n, .xs, i => i.toNat < n.toNat
  | .evsh _ n, .ys, i => i.toNat < n.toNat
  | .gensh _ n _, .xs, i => i.toNat < n.toNat
  | .gensh _ n _, .ys, i => i.toNat < n.toNat
  | .gensh _ _ _, .coef, _ => True
  | .gensub _ m, .sub, i => i.toNat < m.toNat
  | .gensub _ _, .coef, _ => True
  | _, _, _ => False

/-- The base offset of each window (20_memory.md R38). -/
def windowBase : MemId → Nat
  | .coef => 0x100
  | .xs => 0x200
  | .ys => 0x300
  | .sub => 0x400
  | .exp => 0x500
  | .log => 0x600

/-- The host may write the four data windows only (R38). -/
def isData : MemId → Bool
  | .coef | .xs | .ys | .sub => true
  | .exp | .log => false

/-- The offset of word `w` of a window. -/
def windowOffset (m : MemId) (w : Nat) : Offset := BitVec.ofNat 12 (windowBase m + 4 * w)

/-- Misaligned, or in a reserved range (R40, R38). -/
def badOffset (n : Nat) : Prop := n % 4 ≠ 0 ∨ (0x014 ≤ n ∧ n ≤ 0x0FF) ∨ 0x700 ≤ n

/-- A read-only location: ID, RESULT, the EXP window, the LOG window (R41 item 3). -/
def readOnlyOffset (n : Nat) : Prop := n = 0x000 ∨ n = 0x010 ∨ (0x500 ≤ n ∧ n ≤ 0x6FF)

/-- The reset of 70_reset_and_hazards.md R112, over `s`. -/
abbrev afterReset (s : State) : State :=
  { s with ie := false, done := false, ovr := false, errcode := .ok, rx := 0, ry := 0,
           phase := .init, taken := [] }

/-- An event that resets the block: the reset input, or a CTRL write with bit 1 set (R112, R115). -/
def isReset : Event → Bool
  | .hardwareReset => true
  | .hostWrite off v => off == 0x004 && v.getLsbD 1
  | .hostRead _ _ | .entropy _ | .engine => false

/-- The next event resets the block. -/
def resetComes (s : State) : Prop := ∃ e rest, s.events = e :: rest ∧ isReset e = true

/-- The next event is a host write at `off`, of a word that meets `p`. -/
def writeComes (s : State) (off : Offset) (p : Word → Prop) : Prop :=
  ∃ v rest, s.events = .hostWrite off v :: rest ∧ p v

/-- The next event is accepted as a command (10_state.md R33). -/
def accepts (s : State) : Prop := s.phase = .idle ∧ writeComes s 0x00C fun _ => True

/-- The step from `s` to `t` is the completion of the command in flight (10_state.md R34). -/
def completes (s t : State) : Prop :=
  (∃ w, s.phase = .exec w) ∧ t.phase = .idle ∧ ∃ rest, s.engineNext rest

end Sys2Proof.Claims

open Sys2Proof.Claims

/-! ### Encoding -/

/-- A word decodes to a command exactly when it is that command's encoding: no operand bit is dropped,
and no other word means anything (30_encoding.md R54, R57, R58). -/
def Obligations.DecodeIsTheInverseOfEncode : Prop :=
  ∀ (w : Word) (i : Instr), decode w = .ok i ↔ encode i = w

/-- A word hits row n of the opcode map by match and mask exactly when it decodes to a command of that
row, so no word hits two rows (30_encoding.md R57). -/
def Obligations.OpcodeRowsSelectTheCommand : Prop :=
  ∀ (w : Word) (n : Nat) (h : n < opcodeMap.length),
    opcodeMap[n].hits w = true ↔ ∃ i, decode w = .ok i ∧ i.rowIndex = n

/-- Words written out from the spec's own examples decode to the commands the spec writes beside them
(30_encoding.md R61, 40_field.md R75 to R82, 41_polynomial.md R87 to R90, 42_interpolation.md R91,
43_renewal.md R93, R94). -/
def Obligations.ExampleWordsDecodeAsWritten : Prop :=
  decode 0x00000000 = .ok .nop ∧ decode 0x00CA5301 = .ok (.add 0x53 0xCA) ∧
  decode 0x00F00F02 = .ok (.sub 0x0F 0xF0) ∧ decode 0x00CA5303 = .ok (.mul 0x53 0xCA) ∧
  decode 0x00CA8F04 = .ok (.div 0x8F 0xCA) ∧ decode 0x00FE0305 = .ok (.pow 0x03 254) ∧
  decode 0x00000806 = .ok (.exp 8) ∧ decode 0x00001D07 = .ok (.log 0x1D) ∧
  decode 0x00110310 = .ok (.genpoly 3 17) ∧ decode 0x00020411 = .ok (.peval 4 0x02) ∧
  decode 0x00050312 = .ok (.evsh 3 5) ∧ decode 0xC5030213 = .ok (.gensh 2 3 0xC5) ∧
  decode 0x00030320 = .ok (.recon 3 3) ∧ decode 0x00030230 = .ok (.gensub 2 3) ∧
  decode 0x033B0131 = .ok (.combine 0x01 0x3B 3)

/-- An illegal word is accepted like any other, takes no entropy, and completes with IllegalCommand
and no other change; every word that is not illegal decodes (30_encoding.md R58). -/
def Obligations.IllegalWordsFailAtCompletion : Prop :=
  (∀ w : Word, ¬ illegal w ↔ ∃ i, decode w = .ok i) ∧ ErrCode.code .illegalCommand = 0x7 ∧
  ∀ (s : State) (w : Word) (rest : List Event), illegal w →
    (s.phase = .idle → s.events = .hostWrite 0x00C w :: rest →
      ∃ t, step s = .next t ∧ t.phase = .exec w) ∧
    (s.phase = .exec w → s.engineNext rest →
      step s = .next (finished { s with events := rest } .illegalCommand)) ∧
    (∀ b, s.phase = .exec w → s.events = .entropy b :: rest →
      step s = .next { s with events := rest })

/-- The assembler takes exactly the lines with the mnemonic's operand count and every operand in
0..255; the word it makes has the mnemonic's OP value, and op1 in A, op2 in B, op3 in C and 0x00 in the
fields left over (30_encoding.md R61, R57; where a pseudo-instruction's operands go is R62's). That a
line with a wrong operand count is refused is the model's choice, entry 10: R61 implies it and does not
say it. -/
def Obligations.AssemblerPlacesItsOperands : Prop :=
  ∀ l : AsmLine,
    ((assemble l).isSome = true ↔ l.operands.length = l.op.arity ∧ ∀ x ∈ l.operands, x ≤ 255) ∧
    ∀ i, assemble l = some i → fieldOP (encode i) = mnemonicOP l.op ∧
      (l.op ∉ [AsmOp.inv, .sqr, .movr, .neg] →
      fieldA (encode i) = BitVec.ofNat 8 (l.operands.getD 0 0) ∧
      fieldB (encode i) = BitVec.ofNat 8 (l.operands.getD 1 0) ∧
      fieldC (encode i) = BitVec.ofNat 8 (l.operands.getD 2 0))

/-- Each pseudo-instruction expands to its one command, and that command gives its result: INV the
multiplicative inverse, SQR the square, MOVR and NEG the operand (30_encoding.md R62). -/
def Obligations.PseudoInstructionsGiveTheirResults : Prop :=
  ∀ (s : State) (a : Byte), s.tablesBuilt →
    (assemble ⟨.inv, [a.toNat]⟩ = some (.div 0x01 a) ∧
      (a ≠ 0 → ∃ q, exec (.div 0x01 a) s = .next (withResult s 0 q) ∧ rpMul a q = 1) ∧
      (a = 0 → exec (.div 0x01 a) s = .next (finished s .divisionByZero))) ∧
    (assemble ⟨.sqr, [a.toNat]⟩ = some (.mul a a) ∧
      exec (.mul a a) s = .next (withResult s 0 (rpMul a a))) ∧
    (assemble ⟨.movr, [a.toNat]⟩ = some (.add a 0x00) ∧
      exec (.add a 0x00) s = .next (withResult s 0 a)) ∧
    (assemble ⟨.neg, [a.toNat]⟩ = some (.sub 0x00 a) ∧
      exec (.sub 0x00 a) s = .next (withResult s 0 a))

/-! ### The step -/

/-- On the engine's turn, with a word in flight that decodes to a command, the step is the completion
of that command in the state with that turn used up (10_state.md R34). -/
def Obligations.StepRunsTheDecodedCommand : Prop :=
  ∀ (s : State) (w : Word) (i : Instr) (rest : List Event),
    s.phase = .exec w → decode w = .ok i → s.engineNext rest →
      step s = exec i { s with events := rest }

/-- No step of SSCORE stops: no traps, failures complete, stalls wait (60_exceptions.md R97, R99,
70_reset_and_hazards.md R119). That the engine's turn in IDLE and during a stall is a step at all, and so
has a next state, is the model's choice, entry 5: the spec has no such step. -/
def Obligations.EveryStepHasANextState : Prop := ∀ s : State, ∃ t, step s = .next t

/-! ### The field family -/

/-- NOP completes and changes only STATUS and the phase; ADD and SUB complete with the XOR of their
operands in RY and 0x00 in RX (40_field.md R75, R76, R77, R70). -/
def Obligations.NopAddSubComplete : Prop :=
  ∀ (s : State) (a b : Byte),
    exec .nop s = .next (finished s .ok) ∧
    exec (.add a b) s = .next (withResult s 0 (a ^^^ b)) ∧
    exec (.sub a b) s = .next (withResult s 0 (a ^^^ b))

/-- With the tables built, MUL completes with the Russian-peasant product, though it computes with the
tables (40_field.md R71, R78). -/
def Obligations.MulGivesThePeasantProduct : Prop :=
  ∀ (s : State) (a b : Byte), s.tablesBuilt →
    exec (.mul a b) s = .next (withResult s 0 (rpMul a b))

/-- With the tables built, DIV by a nonzero divisor completes with the one quotient whose product with
the divisor is the dividend; by zero it fails, whatever the dividend (40_field.md R72, R79). -/
def Obligations.DivGivesTheOnlyQuotient : Prop :=
  ∀ (s : State) (a b : Byte), s.tablesBuilt →
    (b ≠ 0 → ∃ q, exec (.div a b) s = .next (withResult s 0 q) ∧ rpMul q b = a ∧
      ∀ q', rpMul q' b = a → q' = q) ∧
    (b = 0 → exec (.div a b) s = .next (finished s .divisionByZero))

/-- With the tables built, POW completes with e multiplications from 0x01, for every e in 0..255
(40_field.md R73, R80). -/
def Obligations.PowIsRepeatedMultiplication : Prop :=
  ∀ (s : State) (a e : Byte), s.tablesBuilt →
    exec (.pow a e) s = .next (withResult s 0 (power a e.toNat))

/-- The closed forms of the power: 1 for e = 0 even at a = 0, 0 for a = 0 otherwise, else
EXP[(LOG[a] * e) mod 255]; so a^255 = 1 for a nonzero (40_field.md R73). -/
def Obligations.PowClosedForms : Prop :=
  (∀ (s : State) (a e : Byte), s.tablesBuilt →
    exec (.pow a e) s = .next (withResult s 0
      (if e = 0 then 1 else if a = 0 then 0
       else expTable.read (BitVec.ofNat 8 ((logTable.read a).toNat * e.toNat % 255))))) ∧
  ∀ a : Byte, a ≠ 0 → power a 255 = 1 ∧ rpMul (power a 254) a = 1

/-- With the tables built, EXP i completes with i doublings of 0x01; LOG v with the one exponent below
255 that gives v, for v nonzero, and with 0x00 for v = 0 (40_field.md R81, R82, R67, R68). -/
def Obligations.ExpAndLogReadTheirTables : Prop :=
  ∀ (s : State) (v : Byte), s.tablesBuilt →
    exec (.exp v) s = .next (withResult s 0 (power 0x02 v.toNat)) ∧
    (∃ e, exec (.log v) s = .next (withResult s 0 e) ∧
      (v ≠ 0 → e.toNat < 255 ∧ power 0x02 e.toNat = v ∧
        ∀ e' : Nat, e' < 255 → power 0x02 e' = v → e' = e.toNat) ∧
      (v = 0 → e = 0))

/-- The source's table properties: EXP[LOG[v]] = v for v nonzero, LOG[EXP[i]] = i for i in 0..254, and
two constructions, in two states, give the same tables (40_field.md R69). -/
def Obligations.TablesInvertEachOther : Prop :=
  (∀ v : Byte, v ≠ 0 → expTable.read (logTable.read v) = v) ∧
  (∀ i : Byte, i.toNat ≤ 254 → logTable.read (expTable.read i) = i) ∧
  ∀ (s t s' t' : State), s.phase = .init → t.phase = .init → s.engineNext [] → t.engineNext [] →
    step s = .next s' → step t = .next t' → s'.expT = t'.expT ∧ s'.logT = t'.logT

/-- The field laws of the arithmetic unit over the built tables (40_field.md R74). -/
def Obligations.ArithmeticUnitIsAField : Prop :=
  let t : Tables := ⟨expTable, logTable⟩
  (∀ a b c : Byte,
    gfAdd a b = gfAdd b a ∧ gfAdd (gfAdd a b) c = gfAdd a (gfAdd b c) ∧ gfAdd a 0 = a ∧
    gfAdd a a = 0 ∧ gfSub a b = gfAdd a b ∧
    gfMul t a b = gfMul t b a ∧ gfMul t (gfMul t a b) c = gfMul t a (gfMul t b c) ∧
    gfMul t a 1 = a ∧
    gfMul t a (gfAdd b c) = gfAdd (gfMul t a b) (gfMul t a c) ∧
    (gfMul t a b = 0 ↔ a = 0 ∨ b = 0)) ∧
  (∀ a b : Byte, b ≠ 0 → gfDiv t (gfMul t a b) b = .ok a ∧ gfDiv t b b = .ok 1 ∧
    gfDiv t 0 b = .ok 0) ∧
  ∀ a : Byte, gfDiv t a 0 = .error .divisionByZero

/-! ### Frames and failures -/

/-- A command that writes no memory leaves every entry of every memory and table as it was, and CTRL
and OVR; NOP also leaves RESULT. Only RESULT, ERRCODE, DONE and the phase (with the entropy bytes held)
may change (40_field.md R75 to R82, R88, R91, R94, 10_state.md R24). -/
def Obligations.ResultCommandsLeaveTheMemories : Prop :=
  ∀ (i : Instr) (s t : State), storesNothing i = true → exec i s = .next t →
    (∀ (m : MemId) (a : Byte), (t.mem m).read a = (s.mem m).read a) ∧
    t.ie = s.ie ∧ t.ovr = s.ovr ∧ t.events = s.events ∧ t.resp = s.resp ∧
    (i = .nop → t.rx = s.rx ∧ t.ry = s.ry)

/-- GENPOLY, EVSH, GENSH and GENSUB leave every entry they do not store to as it was, in every memory
and table, and RESULT, CTRL and OVR (41_polynomial.md R87, R89, R90, 43_renewal.md R93). -/
def Obligations.StoringCommandsLeaveOtherEntries : Prop :=
  ∀ (i : Instr) (s t : State), storesNothing i = false → s.memoriesWf = true → exec i s = .next t →
    (∀ (m : MemId) (a : Byte), ¬ storesTo i m a → (t.mem m).read a = (s.mem m).read a) ∧
    t.rx = s.rx ∧ t.ry = s.ry ∧ t.ie = s.ie ∧ t.ovr = s.ovr ∧ t.events = s.events ∧ t.resp = s.resp

/-- A completion that ends with an error code, of a command or of an illegal word, changes STATUS and
the phase and nothing else; and the command has taken no entropy (60_exceptions.md R99). -/
def Obligations.FailureIsAllOrNothing : Prop :=
  ∀ (w : Word) (s t : State) (rest : List Event), s.Inv → s.phase = .exec w → s.engineNext rest →
    step s = .next t → t.errcode ≠ .ok →
      t = { s with events := rest, errcode := t.errcode, done := true, phase := .idle } ∧ s.taken = []

/-- With the tables built, every command fails with exactly the code that R98 and R101 give, in their
order, and only then; when it does not fail and its draws are at hand it succeeds
(60_exceptions.md R98, R101). -/
def Obligations.CommandsFailExactlyAsListed : Prop :=
  ∀ (i : Instr) (s : State), s.tablesBuilt →
    (∀ e, FailsWith s i e → exec i s = .next (finished s e)) ∧
    ((∀ e, ¬ FailsWith s i e) → drawsNeeded i ≤ (useful s.taken).length →
      ∃ t, exec i s = .next t ∧ t.errcode = .ok ∧ t.done = true ∧ t.phase = .idle ∧ t.taken = [])

/-- The codes of R98, and STATUS as the host reads it after a completion: 0x0000_0005 on success,
0x0000_0X0D on failure with code X, plus 0x10 where OVR is set (60_exceptions.md R98, 10_state.md
R19). -/
def Obligations.StatusWordAfterCompletion : Prop :=
  (ErrCode.code .ok = 0x0 ∧ ErrCode.code .invalidThreshold = 0x1 ∧
    ErrCode.code .thresholdExceedsShareCount = 0x2 ∧ ErrCode.code .tooFewPlayers = 0x3 ∧
    ErrCode.code .insufficientShares = 0x4 ∧ ErrCode.code .divisionByZero = 0x5 ∧
    ErrCode.code .emptySubshareSet = 0x6 ∧ ErrCode.code .illegalCommand = 0x7) ∧
  ∀ (s : State) (e : ErrCode), (finished s e).statusWord =
    (if e = .ok then 0x5 else BitVec.ofNat 32 (256 * e.code.toNat + 0xD)) |||
    (if s.ovr then 0x10 else 0)

/-! ### The polynomial family -/

/-- With k nonzero and k - 1 nonzero bytes delivered, GENPOLY completes: COEF[0] is the secret, COEF[j]
the j-th nonzero byte, in order (41_polynomial.md R87, R84). -/
def Obligations.GenpolyStoresSecretAndDraws : Prop :=
  ∀ (s : State) (k secret : Byte), s.coef.wf = true → k ≠ 0 → k.toNat - 1 ≤ (useful s.taken).length →
    ∃ coef, exec (.genpoly k secret) s = .next (finished { s with coef := coef } .ok) ∧
      coef.wf = true ∧
      ∀ i : Byte, coef.read i =
        if i.toNat < k.toNat then drawn secret s.taken i.toNat else s.coef.read i

/-- With the tables built and k nonzero, PEVAL completes with the value of COEF[0..k-1] at x, which
Horner's scheme gives too, in RY and x in RX; at x = 0 that is COEF[0] (41_polynomial.md R83, R88). -/
def Obligations.PevalGivesThePolynomialValue : Prop :=
  ∀ (s : State) (k x : Byte), s.tablesBuilt → k ≠ 0 →
    exec (.peval k x) s = .next (withResult s x (horner (item s.coef) k.toNat x)) ∧
    horner (item s.coef) k.toNat 0 = s.coef.read 0

/-- With the tables built and 1 ≤ k ≤ n, EVSH completes: XS[i] = i + 1 and YS[i] the value of
COEF[0..k-1] there, for i below n; every other entry and register as before (41_polynomial.md R89). -/
def Obligations.EvshWritesTheShares : Prop :=
  ∀ (s : State) (k n : Byte), s.memoriesWf = true → s.tablesBuilt → k ≠ 0 → k.toNat ≤ n.toNat →
    ∃ xs ys, exec (.evsh k n) s = .next (finished { s with xs := xs, ys := ys } .ok) ∧
      ∀ i : Byte,
        xs.read i = (if i.toNat < n.toNat then i + 1 else s.xs.read i) ∧
        ys.read i =
          (if i.toNat < n.toNat then horner (item s.coef) k.toNat (i + 1) else s.ys.read i)

/-- With the tables built, 1 ≤ k ≤ n and k - 1 nonzero bytes delivered, GENSH completes: the shares of
the polynomial with constant term `secret` and the drawn coefficients, and COEF all 0x00
(41_polynomial.md R90, R85). -/
def Obligations.GenshSharesTheSecretAndClears : Prop :=
  ∀ (s : State) (k n secret : Byte), s.memoriesWf = true → s.tablesBuilt → k ≠ 0 →
    k.toNat ≤ n.toNat → k.toNat - 1 ≤ (useful s.taken).length →
    ∃ xs ys coef,
      exec (.gensh k n secret) s = .next (finished { s with xs := xs, ys := ys, coef := coef } .ok) ∧
      ∀ i : Byte, coef.read i = 0 ∧
        xs.read i = (if i.toNat < n.toNat then i + 1 else s.xs.read i) ∧
        ys.read i =
          (if i.toNat < n.toNat then horner (drawn secret s.taken) k.toNat (i + 1)
           else s.ys.read i)

/-- The coefficients the host left in COEF have no influence on GENSH: two states that differ in COEF
alone complete it alike (41_polynomial.md R90: it evaluates the COEF just written, R85). -/
def Obligations.GenshIgnoresOldCoefficients : Prop :=
  ∀ (s : State) (c : Memory) (k n secret : Byte), s.memoriesWf = true → c.wf = true → k ≠ 0 →
    k.toNat ≤ n.toNat → k.toNat - 1 ≤ (useful s.taken).length →
    exec (.gensh k n secret) { s with coef := c } = exec (.gensh k n secret) s

/-! ### Reconstruction and renewal -/

/-- With the tables built, 1 ≤ k ≤ m and XS[0..k-1] distinct, RECON completes, changing no memory; RX is
0x00, and RY is the constant term of every polynomial of k coefficients through the k shares, of which
there is at least one (42_interpolation.md R91). -/
def Obligations.ReconGivesTheConstantTerm : Prop :=
  ∀ (s : State) (k m : Byte), s.tablesBuilt → k ≠ 0 → k.toNat ≤ m.toNat → distinct s.xs k.toNat →
    ∃ y, exec (.recon k m) s = .next (withResult s 0 y) ∧
      (∀ c : Nat → Byte,
        (∀ i, i < k.toNat → horner c k.toNat (item s.xs i) = item s.ys i) → c 0 = y) ∧
      ∃ c : Nat → Byte, ∀ i, i < k.toNat → horner c k.toNat (item s.xs i) = item s.ys i

/-- Where one of XS[0..k-1] is 0x00 and they are distinct, RECON gives that share's own y
(42_interpolation.md R91, corner cases). -/
def Obligations.ReconAtAZeroAbscissa : Prop :=
  ∀ (s : State) (k m : Byte) (i : Nat), s.tablesBuilt → k ≠ 0 → k.toNat ≤ m.toNat →
    distinct s.xs k.toNat → i < k.toNat → item s.xs i = 0 →
    exec (.recon k m) s = .next (withResult s 0 (item s.ys i))

/-- Round trip: after EVSH or GENSH, any k distinct rows of the shares, in any order, copied to the
front of XS and YS of a machine with built tables, reconstruct the constant term
(42_interpolation.md R92). -/
def Obligations.AnyKSharesReconstructTheSecret : Prop :=
  ∀ (s t u : State) (k n secret : Byte) (f : Nat → Nat),
    s.memoriesWf = true → s.tablesBuilt → u.tablesBuilt → k ≠ 0 → k.toNat ≤ n.toNat →
    (∀ i, i < k.toNat → f i < n.toNat) →
    (∀ i j, i < j → j < k.toNat → f i ≠ f j) →
    (∀ i, i < k.toNat → item u.xs i = item t.xs (f i) ∧ item u.ys i = item t.ys (f i)) →
    (exec (.evsh k n) s = .next t →
      exec (.recon k k) u = .next (withResult u 0 (s.coef.read 0))) ∧
    (k.toNat - 1 ≤ (useful s.taken).length → exec (.gensh k n secret) s = .next t →
      exec (.recon k k) u = .next (withResult u 0 secret))

/-- With the tables built, 1 ≤ k ≤ m and k - 1 nonzero bytes delivered, GENSUB completes: SUB[i] is the
value at XS[i] of the drawn polynomial with constant term 0x00, and COEF ends all 0x00
(43_renewal.md R93). -/
def Obligations.GensubWritesZeroConstantShares : Prop :=
  ∀ (s : State) (k m : Byte), s.memoriesWf = true → s.tablesBuilt → k ≠ 0 → k.toNat ≤ m.toNat →
    k.toNat - 1 ≤ (useful s.taken).length →
    ∃ sub coef, exec (.gensub k m) s = .next (finished { s with sub := sub, coef := coef } .ok) ∧
      ∀ i : Byte, coef.read i = 0 ∧
        sub.read i =
          (if i.toNat < m.toNat then horner (drawn 0 s.taken) k.toNat (s.xs.read i)
           else s.sub.read i)

/-- With s nonzero, COMBINE completes with x in RX and y plus SUB[0..s-1] in RY (43_renewal.md R94). -/
def Obligations.CombineAddsTheSubshares : Prop :=
  ∀ (s : State) (x y n : Byte), n ≠ 0 →
    exec (.combine x y n) s = .next (withResult s x (y ^^^ sumOf s.sub n.toNat))

/-- The interpolation half of R96, over given values: where each y is a polynomial c's value plus the
values of zero-constant polynomials `qs`, RECON gives c's constant term (43_renewal.md R96). Only RECON is
run here; RenewalEpochPreservesTheSecret runs GENSUB and COMBINE too. -/
def Obligations.RenewalPreservesTheSecret : Prop :=
  ∀ (s : State) (k : Byte) (c : Nat → Byte) (qs : List (Nat → Byte)),
    s.tablesBuilt → k ≠ 0 → distinct s.xs k.toNat → (∀ q ∈ qs, q 0 = 0) →
    (∀ i, i < k.toNat → item s.ys i =
      (qs.map fun q => horner q k.toNat (item s.xs i)).foldr (· ^^^ ·)
        (horner c k.toNat (item s.xs i))) →
    exec (.recon k k) s = .next (withResult s 0 (c 0))

/-! ### The entropy port -/

/-- A byte on the entropy port is taken exactly while the command in flight still needs a draw;
otherwise the transfer changes nothing (10_state.md R35). That a byte, 0x00 among them, is taken in a step
of its own before the completion and held in `taken` until then is the model's choice, entry 4: R34 takes
the bytes within the completion step. -/
def Obligations.EntropyIsTakenOnlyWhenNeeded : Prop :=
  ∀ (s : State) (b : Byte) (rest : List Event), s.events = .entropy b :: rest →
    (∀ w, s.phase = .exec w → (useful s.taken).length < needed w →
      step s = .next { s with events := rest, taken := s.taken ++ [b] }) ∧
    ((∀ w, s.phase = .exec w → needed w ≤ (useful s.taken).length) →
      step s = .next { s with events := rest })

/-- While a command in flight still needs draws, no step but a reset ends it: the phase stays EXEC, and
BUSY 1, whatever the host, the engine or the entropy source does (70_reset_and_hazards.md R119). The last
clause, that the engine's own turn is then a step that changes nothing, is the model's choice, entry 5: the
spec has no such step. -/
def Obligations.StalledCommandStaysInFlight : Prop :=
  ∀ (s t : State) (w : Word), s.phase = .exec w → (useful s.taken).length < needed w →
    step s = .next t →
    (∀ e rest, s.events = e :: rest → isReset e = true → t.phase = .init) ∧
    ((∀ e rest, s.events = e :: rest → isReset e = false) → t.phase = .exec w ∧ t.busy = true) ∧
    (∀ rest, s.engineNext rest → t = { s with events := rest })

/-! ### Acceptance, phases, reset -/

/-- In IDLE a write to CMD is accepted, whatever the word: DONE and ERRCODE are cleared, the word is in
flight, nothing else of the block changes (10_state.md R33). The clause `taken := []`, no entropy taken
yet, is the model's choice, entry 4. -/
def Obligations.AcceptanceClearsTheOutcome : Prop :=
  ∀ (s : State) (w : Word) (rest : List Event), s.phase = .idle →
    s.events = .hostWrite 0x00C w :: rest →
    step s = .next { s with events := rest, done := false, errcode := .ok, phase := .exec w,
                            taken := [], resp := some (.write false) }

/-- The phase moves only as R31's table says: to INIT by a reset, INIT to IDLE and EXEC to IDLE on the
engine's turn, IDLE to EXEC(w) by a host write of w to CMD; otherwise it stays (10_state.md R31). -/
def Obligations.PhaseMovesOnlyAsListed : Prop :=
  ∀ s t : State, step s = .next t →
    t.phase = s.phase ∨
    (t.phase = .init ∧ ∃ e rest, s.events = e :: rest ∧ isReset e = true) ∨
    (s.phase = .init ∧ t.phase = .idle ∧ ∃ rest, s.engineNext rest) ∨
    ((∃ w, s.phase = .exec w) ∧ t.phase = .idle ∧ ∃ rest, s.engineNext rest) ∨
    (s.phase = .idle ∧ ∃ w rest, t.phase = .exec w ∧ s.events = .hostWrite 0x00C w :: rest)

/-- In INIT the engine's turn builds the tables as the construction of 40_field.md R66 does, clears the
four data memories, and enters IDLE; DONE, OVR, ERRCODE, IE and RESULT stay
(70_reset_and_hazards.md R113). -/
def Obligations.InitBuildsTablesAndClears : Prop :=
  ∀ (s : State) (rest : List Event), s.phase = .init → s.engineNext rest →
    ∃ t, step s = .next t ∧ (t.expT, t.logT) = buildTables ∧
      (∀ i : Byte, t.coef.read i = 0 ∧ t.xs.read i = 0 ∧ t.ys.read i = 0 ∧ t.sub.read i = 0) ∧
      t.phase = .idle ∧ t.done = s.done ∧ t.ovr = s.ovr ∧ t.errcode = s.errcode ∧ t.ie = s.ie ∧
      t.rx = s.rx ∧ t.ry = s.ry ∧ t.events = rest

/-- A hardware reset, and a CTRL write with bit 1 set, in any phase and whatever bit 0 is, do the reset
of R112; the next engine turn then builds the same tables and clears the data memories, and a command
that was in flight has left nothing (70_reset_and_hazards.md R112, R115). -/
def Obligations.ResetsAbandonTheCommand : Prop :=
  ∀ (s : State) (v : Word) (rest : List Event), v.getLsbD 1 = true →
    (s.events = .hardwareReset :: rest →
      step s = .next (afterReset { s with events := rest })) ∧
    (s.events = .hostWrite 0x004 v :: rest →
      step s = .next (afterReset { s with events := rest, resp := some (.write false) })) ∧
    (∀ more, (afterReset s).engineNext more → ∃ t, step (afterReset s) = .next t ∧
      t.phase = .idle ∧ t.done = false ∧ t.tablesBuilt ∧
      ∀ i : Byte, t.coef.read i = 0 ∧ t.xs.read i = 0 ∧ t.ys.read i = 0 ∧ t.sub.read i = 0)

/-- The machine right after reset, and after its one engine turn, reads as R112 and R114 say: STATUS 2
then 1, CTRL and RESULT 0, irq 0, the tables built (70_reset_and_hazards.md R112, R114). -/
def Obligations.ResetValuesBeforeAndAfterInit : Prop :=
  State.reset.phase = .init ∧ State.reset.statusWord = 0x00000002 ∧ State.reset.ctrlWord = 0 ∧
  State.reset.resultWord = 0 ∧ State.reset.irq = false ∧
  ∃ t, step State.reset = .next t ∧ t.phase = .idle ∧ t.statusWord = 0x00000001 ∧ t.ctrlWord = 0 ∧
    t.resultWord = 0 ∧ t.irq = false ∧ t.tablesBuilt ∧
    ∀ i : Byte, t.coef.read i = 0 ∧ t.xs.read i = 0 ∧ t.ys.read i = 0 ∧ t.sub.read i = 0

/-! ### The host port -/

/-- The block's window is the 4 KiB of the host's system map at BASE_ADDR, which is 4 KiB aligned and
otherwise open: an address in it is the offset `off` of the block, and no other address reaches the block
(20_memory.md R37, 00_scope.md R8). -/
def Obligations.SystemAddressesMapToOffsets : Prop :=
  Config.baseAddr % 0x1000 = 0 ∧
  ∀ (addr : Nat) (off : Offset), hostOffset addr = some off ↔ addr = Config.baseAddr + off.toNat

/-- While BUSY a write to CMD or to a data window is dropped: OVR is set, the response is OK, nothing
else changes, and the engine's next turn does what it would have done without it. Writes to CTRL and STATUS take effect
in every phase (70_reset_and_hazards.md R117). -/
def Obligations.BusyWritesAreDropped : Prop :=
  (∀ (s : State) (v : Word) (rest : List Event) (m : MemId) (x : Nat), s.busy = true →
    isData m = true → x < 64 →
    (s.events = .hostWrite 0x00C v :: rest ∨ s.events = .hostWrite (windowOffset m x) v :: rest) →
    step s = .next { s with events := rest, ovr := true, resp := some (.write false) }) ∧
  (∀ (s t : State) (rest : List Event) (r : Option Response), s.engineNext rest → step s = .next t →
    step { s with ovr := true, resp := r } = .next { t with ovr := true, resp := r }) ∧
  ∀ (s : State) (v : Word) (rest : List Event),
    (s.events = .hostWrite 0x004 v :: rest →
      step s = .next (if v.getLsbD 1 then
        afterReset { s with events := rest, resp := some (.write false) }
        else { s with events := rest, ie := v.getLsbD 0, resp := some (.write false) })) ∧
    (s.events = .hostWrite 0x008 v :: rest →
      step s = .next { s with events := rest, done := s.done && !v.getLsbD 2,
                              ovr := s.ovr && !v.getLsbD 4, resp := some (.write false) })

/-- In IDLE a write of v to word x of a data window stores the four bytes of v, least significant
first, in entries 4x .. 4x + 3, in one step, and leaves every other entry and all other state; in any
other phase it is dropped and sets OVR (20_memory.md R43). -/
def Obligations.WindowWriteStoresFourEntries : Prop :=
  ∀ (s : State) (v : Word) (rest : List Event) (m : MemId) (x : Nat), s.memoriesWf = true →
    isData m = true → x < 64 → s.events = .hostWrite (windowOffset m x) v :: rest →
    (s.phase = .idle →
      ∃ mem, step s = .next ({ s with events := rest, resp := some (.write false) }.setMem m mem) ∧
        ∀ j : Byte, mem.read j =
          if j.toNat / 4 = x then v.extractLsb' (8 * (j.toNat % 4)) 8 else (s.mem m).read j) ∧
    (s.phase ≠ .idle →
      step s = .next { s with events := rest, ovr := true, resp := some (.write false) })

/-- A read of word x of any window returns, in IDLE, the word whose byte b is entry 4x + b, and while
BUSY the draw, which can be any value; it changes nothing but the response (20_memory.md R42,
70_reset_and_hazards.md R118). -/
def Obligations.WindowReadPacksFourEntries : Prop :=
  ∀ (s : State) (draw : Word) (rest : List Event) (m : MemId) (x : Nat), x < 64 →
    s.events = .hostRead (windowOffset m x) draw :: rest →
    ∃ data, step s = .next { s with events := rest, resp := some (.read false data) } ∧
      (s.phase ≠ .idle → data = draw) ∧
      (s.phase = .idle → ∀ b, b < 4 → data.extractLsb' (8 * b) 8 = item (s.mem m) (4 * x + b))

/-- The registers as the host reads them, in every phase: ID, CTRL, STATUS bit by bit, CMD, RESULT; the
reserved bits read 0, and the read changes nothing but the response (10_state.md R17 to R23,
20_memory.md R38). -/
def Obligations.RegisterReadsShowTheState : Prop :=
  ∀ (s : State) (draw : Word) (rest : List Event) (off : Offset),
    s.events = .hostRead off draw :: rest →
    (off = 0x000 ∨ off = 0x004 ∨ off = 0x008 ∨ off = 0x00C ∨ off = 0x010) →
    ∃ data, step s = .next { s with events := rest, resp := some (.read false data) } ∧
      (off = 0x000 → data = 0x53530100) ∧
      (off = 0x004 → ∀ n, data.getLsbD n = (n == 0 && s.ie)) ∧
      (off = 0x008 →
        (data.getLsbD 0 = true ↔ s.phase = .idle) ∧ data.getLsbD 1 = !data.getLsbD 0 ∧
        data.getLsbD 2 = s.done ∧ (data.getLsbD 3 = true ↔ s.errcode ≠ .ok) ∧
        data.getLsbD 4 = s.ovr ∧ data.extractLsb' 5 3 = 0 ∧
        data.extractLsb' 8 4 = s.errcode.code ∧ data.extractLsb' 12 20 = 0) ∧
      (off = 0x00C → data = 0) ∧
      (off = 0x010 → data.extractLsb' 0 8 = s.ry ∧ data.extractLsb' 8 8 = s.rx ∧
        data.extractLsb' 16 16 = 0)

/-- A transaction gets an error response exactly when it is misaligned, reserved, or a write to a
read-only location; it then changes no state, and a read returns 0 (20_memory.md R41). -/
def Obligations.ErrorResponsesChangeNothing : Prop :=
  ∀ (s : State) (off : Offset) (v : Word) (rest : List Event),
    (s.events = .hostWrite off v :: rest →
      (badOffset off.toNat ∨ readOnlyOffset off.toNat →
        step s = .next { s with events := rest, resp := some (.write true) }) ∧
      (¬ (badOffset off.toNat ∨ readOnlyOffset off.toNat) →
        ∃ t, step s = .next t ∧ t.resp = some (.write false))) ∧
    (s.events = .hostRead off v :: rest →
      (badOffset off.toNat →
        step s = .next { s with events := rest, resp := some (.read true 0) }) ∧
      (¬ badOffset off.toNat →
        ∃ data, step s = .next { s with events := rest, resp := some (.read false data) }))

/-- While BUSY the host learns nothing of the memories and tables: two busy states that differ only
there answer every read alike (70_reset_and_hazards.md R118, 10_state.md R32). -/
def Obligations.BusyReadsHideTheMemories : Prop :=
  ∀ (s : State) (c x y b e l : Memory) (off : Offset) (draw : Word) (rest : List Event),
    s.busy = true → s.events = .hostRead off draw :: rest →
    ∃ t t', step s = .next t ∧
      step { s with coef := c, xs := x, ys := y, sub := b, expT := e, logT := l } = .next t' ∧
      t.resp = t'.resp

/-- irq is IE and DONE: after a completion it is IE, after IE is written it is the written bit while
DONE holds, and it is down after DONE is cleared, a command is accepted, or a reset; OVR does not drive
it (10_state.md R36). -/
def Obligations.IrqFollowsEnableAndDone : Prop :=
  (∀ s : State, s.irq = (s.ie && s.done) ∧ ∀ o : Bool, ({ s with ovr := o } : State).irq = s.irq) ∧
  (∀ (s t : State) (w : Word) (rest : List Event), s.phase = .exec w → s.engineNext rest →
    step s = .next t → t.phase = .idle → t.irq = s.ie) ∧
  ∀ (s t : State) (e : Event) (rest : List Event), s.events = e :: rest → step s = .next t →
    (∀ v, e = .hostWrite 0x004 v → v.getLsbD 1 = false → t.irq = (v.getLsbD 0 && s.done)) ∧
    (∀ v, e = .hostWrite 0x008 v → v.getLsbD 2 = true → t.irq = false) ∧
    (∀ w, e = .hostWrite 0x00C w → s.phase = .idle → t.irq = false) ∧
    (isReset e = true → t.irq = false)

/-! ### What only some steps may change -/

/-- EXP and LOG change only at init completion, and COEF, XS, YS and SUB only there, at a command's
completion, or by a host write to a data window in IDLE (10_state.md R16, R29, R30, 20_memory.md R43,
R49). -/
def Obligations.MemoriesChangeOnlyAsListed : Prop :=
  ∀ s t : State, step s = .next t →
    ((t.expT ≠ s.expT ∨ t.logT ≠ s.logT) →
      s.phase = .init ∧ t.phase = .idle ∧ ∃ rest, s.engineNext rest) ∧
    ((t.coef ≠ s.coef ∨ t.xs ≠ s.xs ∨ t.ys ≠ s.ys ∨ t.sub ≠ s.sub) →
      (s.phase ≠ .idle ∧ t.phase = .idle ∧ ∃ rest, s.engineNext rest) ∨
      (s.phase = .idle ∧ ∃ m x v rest, isData m = true ∧ x < 64 ∧
        s.events = .hostWrite (windowOffset m x) v :: rest))

/-- RESULT changes only at the successful completion of a command that writes it, or at a reset
(10_state.md R22). -/
def Obligations.ResultChangesOnlyAtSuccess : Prop :=
  ∀ s t : State, step s = .next t → (t.rx ≠ s.rx ∨ t.ry ≠ s.ry) →
    (∃ e rest, s.events = e :: rest ∧ isReset e = true) ∨
    (∃ w i, s.phase = .exec w ∧ decode w = .ok i ∧ writesResult i = true ∧
      t.phase = .idle ∧ t.done = true ∧ t.errcode = .ok)

/-! ### The invariant -/

/-- The invariant holds right after reset. Rests on entry 2 (the contents before init). -/
def Obligations.ResetMeetsTheInvariant : Prop := State.reset.Inv

/-- Every step keeps the invariant: canonical memories, built tables outside INIT, no outcome held while
BUSY, RESULT zero in INIT, no entropy byte held that was not needed (10_state.md R20, R33, R35,
70_reset_and_hazards.md R112 to R114). The canonical form and the bytes held in `taken` are the model's
own, entries 2 and 4. -/
def Obligations.EveryStepKeepsTheInvariant : Prop :=
  ∀ s t : State, s.Inv → step s = .next t → t.Inv

/-! ### The idle turn, the flags, the renewal epoch -/

/-- The engine's turn in IDLE uses up the turn and changes nothing of the block: no memory, no register,
no flag, not the phase. The model's choice, entry 5: the spec has no such step, and by 10_state.md R31 only
a host write or a reset leaves IDLE. -/
def Obligations.IdleTurnChangesNothing : Prop :=
  ∀ (s : State) (rest : List Event), s.phase = .idle → s.engineNext rest →
    step s = .next { s with events := rest }

/-- What may change each flag: IE a CTRL write or a reset; DONE is set at a completion only, and cleared
by a STATUS write with bit 2 set, an acceptance or a reset; OVR is set by a CMD or data-window write while
BUSY only, and cleared by a STATUS write with bit 4 set or a reset; ERRCODE changes at a completion, an
acceptance or a reset (10_state.md R18, R19, R24). -/
def Obligations.FlagsChangeOnlyAsListed : Prop :=
  ∀ s t : State, step s = .next t →
    (t.ie ≠ s.ie → resetComes s ∨ writeComes s 0x004 fun v => t.ie = v.getLsbD 0) ∧
    (s.done = false → t.done = true → completes s t) ∧
    (s.done = true → t.done = false →
      resetComes s ∨ accepts s ∨ writeComes s 0x008 fun v => v.getLsbD 2 = true) ∧
    (s.ovr = false → t.ovr = true → s.busy = true ∧ ((writeComes s 0x00C fun _ => True) ∨
      ∃ m x, isData m = true ∧ x < 64 ∧ writeComes s (windowOffset m x) fun _ => True)) ∧
    (s.ovr = true → t.ovr = false → resetComes s ∨ writeComes s 0x008 fun v => v.getLsbD 4 = true) ∧
    (t.errcode ≠ s.errcode → completes s t ∨ resetComes s ∨ accepts s)

/-- A renewal epoch of n players keeps the secret. Player p runs GENSUB k, n over the abscissas x (state
`g p`, with its k - 1 nonzero bytes delivered, to `g' p`); player i, whose old share (x i, y i) is a point
of c, holds the i-th subshare of every player in SUB and runs COMBINE (state `h i` to `h' i`); RECON over
any k renewed shares with distinct x, in any order, gives c's constant term (43_renewal.md R95, R96). -/
def Obligations.RenewalEpochPreservesTheSecret : Prop :=
  ∀ (k n : Byte) (x y c : Nat → Byte) (g g' h h' : Nat → State) (u : State) (f : Nat → Nat),
    k ≠ 0 → k.toNat ≤ n.toNat → u.tablesBuilt →
    (∀ p, p < n.toNat → (g p).memoriesWf = true ∧ (g p).tablesBuilt ∧
      k.toNat - 1 ≤ (useful (g p).taken).length ∧ (∀ i, i < n.toNat → item (g p).xs i = x i) ∧
      exec (.gensub k n) (g p) = .next (g' p)) →
    (∀ i, i < n.toNat → y i = horner c k.toNat (x i)) →
    (∀ i, i < n.toNat → (∀ p, p < n.toNat → item (h i).sub p = item (g' p).sub i) ∧
      exec (.combine (x i) (y i) n) (h i) = .next (h' i)) →
    (∀ i, i < k.toNat → f i < n.toNat ∧ item u.xs i = (h' (f i)).rx ∧
      item u.ys i = (h' (f i)).ry) →
    distinct u.xs k.toNat →
    exec (.recon k k) u = .next (withResult u 0 (c 0))
end

