-- ==== Sys2Proof/Laws/Decode.lean ====
section
/-! SUPPORT. The laws of the command word's fields, and what the decoder can answer. -/

namespace Sys2Proof

/-- The bits of a packed word, field by field (30_encoding.md R54). -/
theorem getLsbD_packWord (c b a op : Byte) (i : Nat) :
    (packWord c b a op).getLsbD i =
      if i < 8 then op.getLsbD i
      else if i - 8 < 8 then a.getLsbD (i - 8)
      else if i - 8 - 8 < 8 then b.getLsbD (i - 8 - 8)
      else c.getLsbD (i - 8 - 8 - 8) := by
  show BitVec.getLsbD (w := 8 + 8 + 8 + 8) (c ++ b ++ a ++ op) i = _
  simp only [BitVec.getLsbD_append]

@[simp] theorem fieldOP_packWord (c b a op : Byte) : fieldOP (packWord c b a op) = op := by
  apply BitVec.eq_of_getLsbD_eq
  intro i hi
  simp only [fieldOP, BitVec.getLsbD_extractLsb', getLsbD_packWord, hi, decide_true, Bool.true_and]
  rw [if_pos (by omega)]; congr 1; omega

@[simp] theorem fieldA_packWord (c b a op : Byte) : fieldA (packWord c b a op) = a := by
  apply BitVec.eq_of_getLsbD_eq
  intro i hi
  simp only [fieldA, BitVec.getLsbD_extractLsb', getLsbD_packWord, hi, decide_true, Bool.true_and]
  rw [if_neg (by omega), if_pos (by omega)]; congr 1; omega

@[simp] theorem fieldB_packWord (c b a op : Byte) : fieldB (packWord c b a op) = b := by
  apply BitVec.eq_of_getLsbD_eq
  intro i hi
  simp only [fieldB, BitVec.getLsbD_extractLsb', getLsbD_packWord, hi, decide_true, Bool.true_and]
  rw [if_neg (by omega), if_neg (by omega), if_pos (by omega)]; congr 1; omega

@[simp] theorem fieldC_packWord (c b a op : Byte) : fieldC (packWord c b a op) = c := by
  apply BitVec.eq_of_getLsbD_eq
  intro i hi
  simp only [fieldC, BitVec.getLsbD_extractLsb', getLsbD_packWord, hi, decide_true, Bool.true_and]
  rw [if_neg (by omega), if_neg (by omega), if_neg (by omega)]; congr 1; omega

/-- A word is its four fields, in the order C, B, A, OP (30_encoding.md R54). -/
theorem packWord_fields (w : Word) : packWord (fieldC w) (fieldB w) (fieldA w) (fieldOP w) = w := by
  apply BitVec.eq_of_getLsbD_eq
  intro i hi
  simp only [getLsbD_packWord, fieldOP, fieldA, fieldB, fieldC, BitVec.getLsbD_extractLsb']
  split
  · simp [*]
  · split
    · rw [show 8 + (i - 8) = i by omega]; simp [*]
    · split
      · rw [show 16 + (i - 8 - 8) = i by omega]; simp [*]
      · rw [show 24 + (i - 8 - 8 - 8) = i by omega]
        simp [show i - 8 - 8 - 8 < 8 by omega]

/-- A word whose row reserves fields decodes to the row's command exactly when they are zero
(30_encoding.md R58). -/
theorem checkReserved_ok_iff (op : Byte) (z : Bool) (i j : Instr) :
    checkReserved op z i = .ok j ↔ z = true ∧ i = j := by
  unfold checkReserved
  cases z <;> simp

end Sys2Proof
end

