-- ==== Sys2Proof/Laws/Memory.lean ====
section
/-! SUPPORT. The laws of the memories: read after write, canonical form, runs of writes, equality. -/

namespace Sys2Proof.Machine

/-! ### Cells -/

theorem findCell_below (cs : List Host.Cell) (lo k : Nat) (h : cellsWf lo cs = true) (hk : k < lo) :
    findCell cs k = Memory.unlisted := by
  induction cs generalizing lo with
  | nil => rfl
  | cons c cs ih =>
    obtain ⟨a, b⟩ := c
    simp only [cellsWf, Bool.and_eq_true, decide_eq_true_eq] at h
    have : a ≠ k := by omega
    simp [findCell, this, ih (a + 1) h.2 (by omega)]

theorem findCell_putCell_same (cs : List Host.Cell) (lo k : Nat) (v : Byte)
    (h : cellsWf lo cs = true) : findCell (putCell cs k v) k = v := by
  induction cs generalizing lo with
  | nil => by_cases hv : v = Memory.unlisted <;> simp [putCell, findCell, hv]
  | cons c cs ih =>
    obtain ⟨a, b⟩ := c
    simp only [cellsWf, Bool.and_eq_true, decide_eq_true_eq] at h
    by_cases h1 : k < a
    · by_cases hv : v = Memory.unlisted
      · have hne : a ≠ k := by omega
        simp [putCell, h1, hv, findCell, hne, findCell_below cs (a + 1) k h.2 (by omega)]
      · simp [putCell, h1, hv, findCell]
    · by_cases h2 : k = a
      · by_cases hv : v = Memory.unlisted
        · subst h2
          simp [putCell, hv, findCell_below cs (k + 1) k h.2 (by omega)]
        · simp [putCell, h2, hv, findCell]
      · have hne : a ≠ k := Ne.symm h2
        simp [putCell, h1, h2, findCell, hne, ih (a + 1) h.2]

theorem findCell_putCell_ne (cs : List Host.Cell) (k j : Nat) (v : Byte) (h : k ≠ j) :
    findCell (putCell cs k v) j = findCell cs j := by
  induction cs with
  | nil => by_cases hv : v = Memory.unlisted <;> simp [putCell, findCell, hv, h]
  | cons c cs ih =>
    obtain ⟨a, b⟩ := c
    by_cases h1 : k < a
    · by_cases hv : v = Memory.unlisted <;> simp [putCell, h1, hv, findCell, h]
    · by_cases h2 : k = a
      · subst h2
        by_cases hv : v = Memory.unlisted <;> simp [putCell, hv, findCell, h]
      · by_cases h3 : a = j
        · subst h3; simp [putCell, h1, h2, findCell]
        · simp [putCell, h1, h2, findCell, h3, ih]

theorem cellsWf_mono (cs : List Host.Cell) (lo lo' : Nat) (hle : lo' ≤ lo)
    (h : cellsWf lo cs = true) : cellsWf lo' cs = true := by
  cases cs with
  | nil => rfl
  | cons c cs =>
    simp only [cellsWf, Bool.and_eq_true, decide_eq_true_eq] at h ⊢
    exact ⟨⟨⟨by omega, h.1.1.2⟩, h.1.2⟩, h.2⟩

theorem cellsWf_putCell (cs : List Host.Cell) (lo k : Nat) (v : Byte) (hlo : lo ≤ k) (hk : k < 256)
    (h : cellsWf lo cs = true) : cellsWf lo (putCell cs k v) = true := by
  induction cs generalizing lo with
  | nil => by_cases hv : v = Memory.unlisted <;> simp [putCell, cellsWf, hv, hlo, hk]
  | cons c cs ih =>
    obtain ⟨a, b⟩ := c
    have h' := h
    simp only [cellsWf, Bool.and_eq_true, decide_eq_true_eq] at h
    by_cases h1 : k < a
    · by_cases hv : v = Memory.unlisted
      · simpa [putCell, h1, hv] using h'
      · simp only [putCell, h1, hv, if_true, if_false, cellsWf, Bool.and_eq_true, decide_eq_true_eq]
        exact ⟨⟨⟨hlo, hk⟩, by simp [hv]⟩, ⟨⟨⟨by omega, h.1.1.2⟩, h.1.2⟩, h.2⟩⟩
    · by_cases h2 : k = a
      · subst h2
        by_cases hv : v = Memory.unlisted
        · simpa [putCell, hv] using cellsWf_mono cs (k + 1) lo (by omega) h.2
        · simp only [putCell, h1, hv, if_true, if_false, cellsWf, Bool.and_eq_true,
            decide_eq_true_eq]
          exact ⟨⟨⟨hlo, hk⟩, by simp [hv]⟩, h.2⟩
      · simp only [putCell, h1, h2, if_false, cellsWf, Bool.and_eq_true, decide_eq_true_eq]
        exact ⟨⟨⟨h.1.1.1, h.1.1.2⟩, h.1.2⟩, ih (a + 1) (by omega) h.2⟩

theorem cells_eq_of_findCell_eq (cs ds : List Host.Cell) (lo : Nat) (hc : cellsWf lo cs = true)
    (hd : cellsWf lo ds = true) (h : ∀ k, k < 256 → findCell cs k = findCell ds k) : cs = ds := by
  induction cs generalizing lo ds with
  | nil =>
    cases ds with
    | nil => rfl
    | cons d ds =>
      obtain ⟨a, b⟩ := d
      simp only [cellsWf, Bool.and_eq_true, decide_eq_true_eq, bne_iff_ne] at hd
      exact absurd (by simpa [findCell] using (h a hd.1.1.2).symm) hd.1.2
  | cons c cs ih =>
    obtain ⟨a, b⟩ := c
    simp only [cellsWf, Bool.and_eq_true, decide_eq_true_eq, bne_iff_ne] at hc
    cases ds with
    | nil => exact absurd (by simpa [findCell] using h a hc.1.1.2) hc.1.2
    | cons d ds =>
      obtain ⟨a', b'⟩ := d
      simp only [cellsWf, Bool.and_eq_true, decide_eq_true_eq, bne_iff_ne] at hd
      rcases Nat.lt_trichotomy a a' with hlt | heq | hlt
      · have e := h a hc.1.1.2
        have hne : a' ≠ a := by omega
        simp only [findCell, if_true, hne, if_false,
          findCell_below ds (a' + 1) a hd.2 (by omega)] at e
        exact absurd e hc.1.2
      · subst heq
        have e := h a hc.1.1.2
        simp only [findCell, if_true] at e
        have tail : cs = ds := by
          refine ih ds (a + 1) hc.2 hd.2 fun k hk => ?_
          by_cases hka : a = k
          · subst hka
            rw [findCell_below cs (a + 1) a hc.2 (by omega), findCell_below ds (a + 1) a hd.2 (by omega)]
          · simpa [findCell, hka] using h k hk
        rw [e, tail]
      · have e := h a' hd.1.1.2
        have hne : a ≠ a' := by omega
        simp only [findCell, if_true, hne, if_false,
          findCell_below cs (a + 1) a' hc.2 (by omega)] at e
        exact absurd e.symm hd.1.2

/-! ### Reading and writing -/

@[simp] theorem Memory.read_zero (i : Byte) : Memory.zero.read i = 0 := rfl

@[simp] theorem Memory.zero_wf : Memory.zero.wf = true := rfl

theorem Memory.read_write_same (m : Memory) (i v : Byte) (h : m.wf = true) :
    (m.write i v).read i = v := findCell_putCell_same m.cells 0 i.toNat v h

theorem Memory.read_write_ne (m : Memory) (i j v : Byte) (h : i ≠ j) :
    (m.write i v).read j = m.read j :=
  findCell_putCell_ne m.cells i.toNat j.toNat v fun e => h (BitVec.eq_of_toNat_eq e)

theorem Memory.write_wf (m : Memory) (i v : Byte) (h : m.wf = true) : (m.write i v).wf = true :=
  cellsWf_putCell m.cells 0 i.toNat v (Nat.zero_le _) i.isLt h

/-- Two memories in canonical form that read alike are equal. -/
theorem Memory.eq_of_read_eq (m n : Memory) (hm : m.wf = true) (hn : n.wf = true)
    (h : ∀ i, m.read i = n.read i) : m = n := by
  cases m with | mk cs => cases n with | mk ds =>
  congr
  refine cells_eq_of_findCell_eq cs ds 0 hm hn fun k hk => ?_
  have := h (BitVec.ofNat 8 k)
  simpa [Memory.read, Nat.mod_eq_of_lt hk] using this

/-! ### Runs of writes -/

theorem Memory.writeSeq_wf (m : Memory) (j : Nat) (vs : List Byte) (h : m.wf = true) :
    (m.writeSeq j vs).wf = true := by
  induction vs generalizing m j with
  | nil => exact h
  | cons v vs ih => exact ih (m.write _ v) (j + 1) (m.write_wf _ v h)

/-- A run of writes at `j`, `j + 1`, ...: an entry inside the run reads the value written there, an
entry outside reads as before. -/
theorem Memory.read_writeSeq (m : Memory) (j : Nat) (vs : List Byte) (i : Byte) (hm : m.wf = true)
    (hlen : j + vs.length ≤ 256) :
    (m.writeSeq j vs).read i =
      if j ≤ i.toNat ∧ i.toNat < j + vs.length then vs.getD (i.toNat - j) 0 else m.read i := by
  induction vs generalizing m j with
  | nil =>
    have : ¬(j ≤ i.toNat ∧ i.toNat < j + ([] : List Byte).length) := by simp
    rw [if_neg this]; rfl
  | cons v vs ih =>
    have hj : j < 256 := by simp at hlen; omega
    rw [Memory.writeSeq, ih (m.write _ v) (j + 1) (m.write_wf _ v hm) (by simp at hlen; omega)]
    by_cases hi : i.toNat = j
    · have hij : i = BitVec.ofNat 8 j := by
        apply BitVec.eq_of_toNat_eq; simp [hi, Nat.mod_eq_of_lt hj]
      have h1 : ¬(j + 1 ≤ i.toNat ∧ i.toNat < j + 1 + vs.length) := by omega
      have h2 : j ≤ i.toNat ∧ i.toNat < j + (v :: vs).length := by simp; omega
      rw [if_neg h1, if_pos h2, hij, Memory.read_write_same m _ v hm]
      simp [Nat.mod_eq_of_lt hj]
    · have hij : BitVec.ofNat 8 j ≠ i := by
        intro e; apply hi; rw [← e]; simp [Nat.mod_eq_of_lt hj]
      by_cases hr : j + 1 ≤ i.toNat ∧ i.toNat < j + 1 + vs.length
      · have h2 : j ≤ i.toNat ∧ i.toNat < j + (v :: vs).length := by simp; omega
        rw [if_pos hr, if_pos h2]
        have : i.toNat - j = (i.toNat - (j + 1)) + 1 := by omega
        rw [this]; rfl
      · have h2 : ¬(j ≤ i.toNat ∧ i.toNat < j + (v :: vs).length) := by simp; omega
        rw [if_neg hr, if_neg h2, Memory.read_write_ne m _ i v hij]

theorem Memory.writeWord_wf (m : Memory) (base : Byte) (v : Word) (h : m.wf = true) :
    (m.writeWord base v).wf = true :=
  Memory.write_wf _ _ _ (Memory.write_wf _ _ _ (Memory.write_wf _ _ _ (Memory.write_wf _ _ _ h)))

/-! ### The tables are in canonical form -/

theorem expTable_wf : expTable.wf = true := by decide +kernel

theorem logTable_wf : logTable.wf = true := by decide +kernel

end Sys2Proof.Machine
end

