-- ==== Sys2Proof/Laws/State.lean ====
section
/-! SUPPORT. One lemma per field per update of the state, true by rfl, so that no later proof unfolds
a record update. -/

namespace Sys2Proof.Machine

variable (s : State)

/-! ### setResult -/

@[simp] theorem State.setResult_ie (x y : Byte) : (s.setResult x y).ie = s.ie := rfl
@[simp] theorem State.setResult_done (x y : Byte) : (s.setResult x y).done = s.done := rfl
@[simp] theorem State.setResult_ovr (x y : Byte) : (s.setResult x y).ovr = s.ovr := rfl
@[simp] theorem State.setResult_errcode (x y : Byte) : (s.setResult x y).errcode = s.errcode := rfl
@[simp] theorem State.setResult_ry (x y : Byte) : (s.setResult x y).ry = y := rfl
@[simp] theorem State.setResult_rx (x y : Byte) : (s.setResult x y).rx = x := rfl
@[simp] theorem State.setResult_coef (x y : Byte) : (s.setResult x y).coef = s.coef := rfl
@[simp] theorem State.setResult_xs (x y : Byte) : (s.setResult x y).xs = s.xs := rfl
@[simp] theorem State.setResult_ys (x y : Byte) : (s.setResult x y).ys = s.ys := rfl
@[simp] theorem State.setResult_sub (x y : Byte) : (s.setResult x y).sub = s.sub := rfl
@[simp] theorem State.setResult_expT (x y : Byte) : (s.setResult x y).expT = s.expT := rfl
@[simp] theorem State.setResult_logT (x y : Byte) : (s.setResult x y).logT = s.logT := rfl
@[simp] theorem State.setResult_phase (x y : Byte) : (s.setResult x y).phase = s.phase := rfl
@[simp] theorem State.setResult_taken (x y : Byte) : (s.setResult x y).taken = s.taken := rfl
@[simp] theorem State.setResult_events (x y : Byte) : (s.setResult x y).events = s.events := rfl
@[simp] theorem State.setResult_resp (x y : Byte) : (s.setResult x y).resp = s.resp := rfl

/-! ### accept -/

@[simp] theorem State.accept_ie (w : Word) : (s.accept w).ie = s.ie := rfl
@[simp] theorem State.accept_done (w : Word) : (s.accept w).done = false := rfl
@[simp] theorem State.accept_ovr (w : Word) : (s.accept w).ovr = s.ovr := rfl
@[simp] theorem State.accept_errcode (w : Word) : (s.accept w).errcode = .ok := rfl
@[simp] theorem State.accept_ry (w : Word) : (s.accept w).ry = s.ry := rfl
@[simp] theorem State.accept_rx (w : Word) : (s.accept w).rx = s.rx := rfl
@[simp] theorem State.accept_coef (w : Word) : (s.accept w).coef = s.coef := rfl
@[simp] theorem State.accept_xs (w : Word) : (s.accept w).xs = s.xs := rfl
@[simp] theorem State.accept_ys (w : Word) : (s.accept w).ys = s.ys := rfl
@[simp] theorem State.accept_sub (w : Word) : (s.accept w).sub = s.sub := rfl
@[simp] theorem State.accept_expT (w : Word) : (s.accept w).expT = s.expT := rfl
@[simp] theorem State.accept_logT (w : Word) : (s.accept w).logT = s.logT := rfl
@[simp] theorem State.accept_phase (w : Word) : (s.accept w).phase = .exec w := rfl
@[simp] theorem State.accept_taken (w : Word) : (s.accept w).taken = [] := rfl
@[simp] theorem State.accept_events (w : Word) : (s.accept w).events = s.events := rfl
@[simp] theorem State.accept_resp (w : Word) : (s.accept w).resp = s.resp := rfl

/-! ### complete -/

@[simp] theorem State.complete_ie : (s.complete).ie = s.ie := rfl
@[simp] theorem State.complete_done : (s.complete).done = true := rfl
@[simp] theorem State.complete_ovr : (s.complete).ovr = s.ovr := rfl
@[simp] theorem State.complete_errcode : (s.complete).errcode = .ok := rfl
@[simp] theorem State.complete_ry : (s.complete).ry = s.ry := rfl
@[simp] theorem State.complete_rx : (s.complete).rx = s.rx := rfl
@[simp] theorem State.complete_coef : (s.complete).coef = s.coef := rfl
@[simp] theorem State.complete_xs : (s.complete).xs = s.xs := rfl
@[simp] theorem State.complete_ys : (s.complete).ys = s.ys := rfl
@[simp] theorem State.complete_sub : (s.complete).sub = s.sub := rfl
@[simp] theorem State.complete_expT : (s.complete).expT = s.expT := rfl
@[simp] theorem State.complete_logT : (s.complete).logT = s.logT := rfl
@[simp] theorem State.complete_phase : (s.complete).phase = .idle := rfl
@[simp] theorem State.complete_taken : (s.complete).taken = [] := rfl
@[simp] theorem State.complete_events : (s.complete).events = s.events := rfl
@[simp] theorem State.complete_resp : (s.complete).resp = s.resp := rfl

/-! ### failWith -/

@[simp] theorem State.failWith_ie (e : ErrCode) : (s.failWith e).ie = s.ie := rfl
@[simp] theorem State.failWith_done (e : ErrCode) : (s.failWith e).done = true := rfl
@[simp] theorem State.failWith_ovr (e : ErrCode) : (s.failWith e).ovr = s.ovr := rfl
@[simp] theorem State.failWith_errcode (e : ErrCode) : (s.failWith e).errcode = e := rfl
@[simp] theorem State.failWith_ry (e : ErrCode) : (s.failWith e).ry = s.ry := rfl
@[simp] theorem State.failWith_rx (e : ErrCode) : (s.failWith e).rx = s.rx := rfl
@[simp] theorem State.failWith_coef (e : ErrCode) : (s.failWith e).coef = s.coef := rfl
@[simp] theorem State.failWith_xs (e : ErrCode) : (s.failWith e).xs = s.xs := rfl
@[simp] theorem State.failWith_ys (e : ErrCode) : (s.failWith e).ys = s.ys := rfl
@[simp] theorem State.failWith_sub (e : ErrCode) : (s.failWith e).sub = s.sub := rfl
@[simp] theorem State.failWith_expT (e : ErrCode) : (s.failWith e).expT = s.expT := rfl
@[simp] theorem State.failWith_logT (e : ErrCode) : (s.failWith e).logT = s.logT := rfl
@[simp] theorem State.failWith_phase (e : ErrCode) : (s.failWith e).phase = .idle := rfl
@[simp] theorem State.failWith_taken (e : ErrCode) : (s.failWith e).taken = [] := rfl
@[simp] theorem State.failWith_events (e : ErrCode) : (s.failWith e).events = s.events := rfl
@[simp] theorem State.failWith_resp (e : ErrCode) : (s.failWith e).resp = s.resp := rfl

/-! ### completeScalar -/

@[simp] theorem State.completeScalar_ie (y : Byte) : (s.completeScalar y).ie = s.ie := rfl
@[simp] theorem State.completeScalar_done (y : Byte) : (s.completeScalar y).done = true := rfl
@[simp] theorem State.completeScalar_ovr (y : Byte) : (s.completeScalar y).ovr = s.ovr := rfl
@[simp] theorem State.completeScalar_errcode (y : Byte) : (s.completeScalar y).errcode = .ok := rfl
@[simp] theorem State.completeScalar_ry (y : Byte) : (s.completeScalar y).ry = y := rfl
@[simp] theorem State.completeScalar_rx (y : Byte) : (s.completeScalar y).rx = 0 := rfl
@[simp] theorem State.completeScalar_coef (y : Byte) : (s.completeScalar y).coef = s.coef := rfl
@[simp] theorem State.completeScalar_xs (y : Byte) : (s.completeScalar y).xs = s.xs := rfl
@[simp] theorem State.completeScalar_ys (y : Byte) : (s.completeScalar y).ys = s.ys := rfl
@[simp] theorem State.completeScalar_sub (y : Byte) : (s.completeScalar y).sub = s.sub := rfl
@[simp] theorem State.completeScalar_expT (y : Byte) : (s.completeScalar y).expT = s.expT := rfl
@[simp] theorem State.completeScalar_logT (y : Byte) : (s.completeScalar y).logT = s.logT := rfl
@[simp] theorem State.completeScalar_phase (y : Byte) : (s.completeScalar y).phase = .idle := rfl
@[simp] theorem State.completeScalar_taken (y : Byte) : (s.completeScalar y).taken = [] := rfl
@[simp] theorem State.completeScalar_events (y : Byte) : (s.completeScalar y).events = s.events := rfl
@[simp] theorem State.completeScalar_resp (y : Byte) : (s.completeScalar y).resp = s.resp := rfl

/-! ### writeStatus -/

@[simp] theorem State.writeStatus_ie (v : Word) : (s.writeStatus v).ie = s.ie := rfl
@[simp] theorem State.writeStatus_done (v : Word) : (s.writeStatus v).done = (s.done && !v.getLsbD 2) := rfl
@[simp] theorem State.writeStatus_ovr (v : Word) : (s.writeStatus v).ovr = (s.ovr && !v.getLsbD 4) := rfl
@[simp] theorem State.writeStatus_errcode (v : Word) : (s.writeStatus v).errcode = s.errcode := rfl
@[simp] theorem State.writeStatus_ry (v : Word) : (s.writeStatus v).ry = s.ry := rfl
@[simp] theorem State.writeStatus_rx (v : Word) : (s.writeStatus v).rx = s.rx := rfl
@[simp] theorem State.writeStatus_coef (v : Word) : (s.writeStatus v).coef = s.coef := rfl
@[simp] theorem State.writeStatus_xs (v : Word) : (s.writeStatus v).xs = s.xs := rfl
@[simp] theorem State.writeStatus_ys (v : Word) : (s.writeStatus v).ys = s.ys := rfl
@[simp] theorem State.writeStatus_sub (v : Word) : (s.writeStatus v).sub = s.sub := rfl
@[simp] theorem State.writeStatus_expT (v : Word) : (s.writeStatus v).expT = s.expT := rfl
@[simp] theorem State.writeStatus_logT (v : Word) : (s.writeStatus v).logT = s.logT := rfl
@[simp] theorem State.writeStatus_phase (v : Word) : (s.writeStatus v).phase = s.phase := rfl
@[simp] theorem State.writeStatus_taken (v : Word) : (s.writeStatus v).taken = s.taken := rfl
@[simp] theorem State.writeStatus_events (v : Word) : (s.writeStatus v).events = s.events := rfl
@[simp] theorem State.writeStatus_resp (v : Word) : (s.writeStatus v).resp = s.resp := rfl

/-! ### resetStep -/

@[simp] theorem State.resetStep_ie : (s.resetStep).ie = false := rfl
@[simp] theorem State.resetStep_done : (s.resetStep).done = false := rfl
@[simp] theorem State.resetStep_ovr : (s.resetStep).ovr = false := rfl
@[simp] theorem State.resetStep_errcode : (s.resetStep).errcode = .ok := rfl
@[simp] theorem State.resetStep_ry : (s.resetStep).ry = 0 := rfl
@[simp] theorem State.resetStep_rx : (s.resetStep).rx = 0 := rfl
@[simp] theorem State.resetStep_coef : (s.resetStep).coef = s.coef := rfl
@[simp] theorem State.resetStep_xs : (s.resetStep).xs = s.xs := rfl
@[simp] theorem State.resetStep_ys : (s.resetStep).ys = s.ys := rfl
@[simp] theorem State.resetStep_sub : (s.resetStep).sub = s.sub := rfl
@[simp] theorem State.resetStep_expT : (s.resetStep).expT = s.expT := rfl
@[simp] theorem State.resetStep_logT : (s.resetStep).logT = s.logT := rfl
@[simp] theorem State.resetStep_phase : (s.resetStep).phase = .init := rfl
@[simp] theorem State.resetStep_taken : (s.resetStep).taken = [] := rfl
@[simp] theorem State.resetStep_events : (s.resetStep).events = s.events := rfl
@[simp] theorem State.resetStep_resp : (s.resetStep).resp = s.resp := rfl

/-! ### initComplete -/

@[simp] theorem State.initComplete_ie : (s.initComplete).ie = s.ie := rfl
@[simp] theorem State.initComplete_done : (s.initComplete).done = s.done := rfl
@[simp] theorem State.initComplete_ovr : (s.initComplete).ovr = s.ovr := rfl
@[simp] theorem State.initComplete_errcode : (s.initComplete).errcode = s.errcode := rfl
@[simp] theorem State.initComplete_ry : (s.initComplete).ry = s.ry := rfl
@[simp] theorem State.initComplete_rx : (s.initComplete).rx = s.rx := rfl
@[simp] theorem State.initComplete_coef : (s.initComplete).coef = .zero := rfl
@[simp] theorem State.initComplete_xs : (s.initComplete).xs = .zero := rfl
@[simp] theorem State.initComplete_ys : (s.initComplete).ys = .zero := rfl
@[simp] theorem State.initComplete_sub : (s.initComplete).sub = .zero := rfl
@[simp] theorem State.initComplete_expT : (s.initComplete).expT = expTable := rfl
@[simp] theorem State.initComplete_logT : (s.initComplete).logT = logTable := rfl
@[simp] theorem State.initComplete_phase : (s.initComplete).phase = .idle := rfl
@[simp] theorem State.initComplete_taken : (s.initComplete).taken = s.taken := rfl
@[simp] theorem State.initComplete_events : (s.initComplete).events = s.events := rfl
@[simp] theorem State.initComplete_resp : (s.initComplete).resp = s.resp := rfl

/-! ### dropWrite -/

@[simp] theorem State.dropWrite_ie : (s.dropWrite).ie = s.ie := rfl
@[simp] theorem State.dropWrite_done : (s.dropWrite).done = s.done := rfl
@[simp] theorem State.dropWrite_ovr : (s.dropWrite).ovr = true := rfl
@[simp] theorem State.dropWrite_errcode : (s.dropWrite).errcode = s.errcode := rfl
@[simp] theorem State.dropWrite_ry : (s.dropWrite).ry = s.ry := rfl
@[simp] theorem State.dropWrite_rx : (s.dropWrite).rx = s.rx := rfl
@[simp] theorem State.dropWrite_coef : (s.dropWrite).coef = s.coef := rfl
@[simp] theorem State.dropWrite_xs : (s.dropWrite).xs = s.xs := rfl
@[simp] theorem State.dropWrite_ys : (s.dropWrite).ys = s.ys := rfl
@[simp] theorem State.dropWrite_sub : (s.dropWrite).sub = s.sub := rfl
@[simp] theorem State.dropWrite_expT : (s.dropWrite).expT = s.expT := rfl
@[simp] theorem State.dropWrite_logT : (s.dropWrite).logT = s.logT := rfl
@[simp] theorem State.dropWrite_phase : (s.dropWrite).phase = s.phase := rfl
@[simp] theorem State.dropWrite_taken : (s.dropWrite).taken = s.taken := rfl
@[simp] theorem State.dropWrite_events : (s.dropWrite).events = s.events := rfl
@[simp] theorem State.dropWrite_resp : (s.dropWrite).resp = s.resp := rfl

/-! ### hostRead -/

@[simp] theorem State.hostRead_ie (off : Offset) (draw : Word) : (s.hostRead off draw).ie = s.ie := rfl
@[simp] theorem State.hostRead_done (off : Offset) (draw : Word) : (s.hostRead off draw).done = s.done := rfl
@[simp] theorem State.hostRead_ovr (off : Offset) (draw : Word) : (s.hostRead off draw).ovr = s.ovr := rfl
@[simp] theorem State.hostRead_errcode (off : Offset) (draw : Word) : (s.hostRead off draw).errcode = s.errcode := rfl
@[simp] theorem State.hostRead_ry (off : Offset) (draw : Word) : (s.hostRead off draw).ry = s.ry := rfl
@[simp] theorem State.hostRead_rx (off : Offset) (draw : Word) : (s.hostRead off draw).rx = s.rx := rfl
@[simp] theorem State.hostRead_coef (off : Offset) (draw : Word) : (s.hostRead off draw).coef = s.coef := rfl
@[simp] theorem State.hostRead_xs (off : Offset) (draw : Word) : (s.hostRead off draw).xs = s.xs := rfl
@[simp] theorem State.hostRead_ys (off : Offset) (draw : Word) : (s.hostRead off draw).ys = s.ys := rfl
@[simp] theorem State.hostRead_sub (off : Offset) (draw : Word) : (s.hostRead off draw).sub = s.sub := rfl
@[simp] theorem State.hostRead_expT (off : Offset) (draw : Word) : (s.hostRead off draw).expT = s.expT := rfl
@[simp] theorem State.hostRead_logT (off : Offset) (draw : Word) : (s.hostRead off draw).logT = s.logT := rfl
@[simp] theorem State.hostRead_phase (off : Offset) (draw : Word) : (s.hostRead off draw).phase = s.phase := rfl
@[simp] theorem State.hostRead_taken (off : Offset) (draw : Word) : (s.hostRead off draw).taken = s.taken := rfl
@[simp] theorem State.hostRead_events (off : Offset) (draw : Word) : (s.hostRead off draw).events = s.events := rfl
@[simp] theorem State.hostRead_resp (off : Offset) (draw : Word) : (s.hostRead off draw).resp = some (s.readResponse off draw) := rfl

/-! ### writeShares -/

@[simp] theorem State.writeShares_ie (coef : Memory) (k n : Nat) : (s.writeShares coef k n).ie = s.ie := rfl
@[simp] theorem State.writeShares_done (coef : Memory) (k n : Nat) : (s.writeShares coef k n).done = s.done := rfl
@[simp] theorem State.writeShares_ovr (coef : Memory) (k n : Nat) : (s.writeShares coef k n).ovr = s.ovr := rfl
@[simp] theorem State.writeShares_errcode (coef : Memory) (k n : Nat) : (s.writeShares coef k n).errcode = s.errcode := rfl
@[simp] theorem State.writeShares_ry (coef : Memory) (k n : Nat) : (s.writeShares coef k n).ry = s.ry := rfl
@[simp] theorem State.writeShares_rx (coef : Memory) (k n : Nat) : (s.writeShares coef k n).rx = s.rx := rfl
@[simp] theorem State.writeShares_coef (coef : Memory) (k n : Nat) : (s.writeShares coef k n).coef = s.coef := rfl
@[simp] theorem State.writeShares_xs (coef : Memory) (k n : Nat) : (s.writeShares coef k n).xs = s.xs.writeSeq 0 (abscissas n) := rfl
@[simp] theorem State.writeShares_ys (coef : Memory) (k n : Nat) : (s.writeShares coef k n).ys = s.ys.writeSeq 0 ((abscissas n).map fun x => polyEval s.tables coef x k) := rfl
@[simp] theorem State.writeShares_sub (coef : Memory) (k n : Nat) : (s.writeShares coef k n).sub = s.sub := rfl
@[simp] theorem State.writeShares_expT (coef : Memory) (k n : Nat) : (s.writeShares coef k n).expT = s.expT := rfl
@[simp] theorem State.writeShares_logT (coef : Memory) (k n : Nat) : (s.writeShares coef k n).logT = s.logT := rfl
@[simp] theorem State.writeShares_phase (coef : Memory) (k n : Nat) : (s.writeShares coef k n).phase = s.phase := rfl
@[simp] theorem State.writeShares_taken (coef : Memory) (k n : Nat) : (s.writeShares coef k n).taken = s.taken := rfl
@[simp] theorem State.writeShares_events (coef : Memory) (k n : Nat) : (s.writeShares coef k n).events = s.events := rfl
@[simp] theorem State.writeShares_resp (coef : Memory) (k n : Nat) : (s.writeShares coef k n).resp = s.resp := rfl

/-! ### Replacing one memory -/

@[simp] theorem State.setMem_ie (id : MemId) (m : Memory) : (s.setMem id m).ie = s.ie := by cases id <;> rfl
@[simp] theorem State.setMem_done (id : MemId) (m : Memory) : (s.setMem id m).done = s.done := by cases id <;> rfl
@[simp] theorem State.setMem_ovr (id : MemId) (m : Memory) : (s.setMem id m).ovr = s.ovr := by cases id <;> rfl
@[simp] theorem State.setMem_errcode (id : MemId) (m : Memory) : (s.setMem id m).errcode = s.errcode := by cases id <;> rfl
@[simp] theorem State.setMem_ry (id : MemId) (m : Memory) : (s.setMem id m).ry = s.ry := by cases id <;> rfl
@[simp] theorem State.setMem_rx (id : MemId) (m : Memory) : (s.setMem id m).rx = s.rx := by cases id <;> rfl
@[simp] theorem State.setMem_phase (id : MemId) (m : Memory) : (s.setMem id m).phase = s.phase := by cases id <;> rfl
@[simp] theorem State.setMem_taken (id : MemId) (m : Memory) : (s.setMem id m).taken = s.taken := by cases id <;> rfl
@[simp] theorem State.setMem_events (id : MemId) (m : Memory) : (s.setMem id m).events = s.events := by cases id <;> rfl
@[simp] theorem State.setMem_resp (id : MemId) (m : Memory) : (s.setMem id m).resp = s.resp := by cases id <;> rfl

@[simp] theorem State.mem_setMem_same (id : MemId) (m : Memory) : (s.setMem id m).mem id = m := by
  cases id <;> rfl

theorem State.mem_setMem_ne (id id' : MemId) (m : Memory) (h : id ≠ id') :
    (s.setMem id m).mem id' = s.mem id' := by
  cases id <;> cases id' <;> first | rfl | exact absurd rfl h

/-! ### Derived flags -/

@[simp] theorem State.tables_exp : s.tables.exp = s.expT := rfl
@[simp] theorem State.tables_log : s.tables.log = s.logT := rfl

theorem State.busy_eq_not_ready : s.busy = !s.ready := by
  unfold State.busy State.ready; cases s.phase <;> rfl

theorem State.busy_eq_false_iff : s.busy = false ↔ s.phase = .idle := by
  unfold State.busy; cases s.phase <;> simp

theorem State.busy_of_exec (w : Word) (h : s.phase = .exec w) : s.busy = true := by
  simp [State.busy, h]

theorem State.busy_of_init (h : s.phase = .init) : s.busy = true := by
  simp [State.busy, h]

end Sys2Proof.Machine
end

