-- ==== Sys2Proof/Laws/Ops.lean ====
section
/-! SUPPORT. One lemma for each shared operation that says what it can do: the entropy draws, the
operand checks, the runs of shares and subshares, one entropy transfer, one host write, one step. -/

namespace Sys2Proof.Machine

/-! ### Draws -/

/-- The nonzero bytes among those delivered, in order. -/
abbrev nonzero (bs : List Byte) : List Byte := bs.filter (· != 0)

/-- Drawing `n` coefficients takes the first `n` nonzero bytes, and waits while there are fewer
(41_polynomial.md R84). -/
theorem drawCoeffs_eq (n : Nat) (bs : List Byte) :
    drawCoeffs n bs = if n ≤ (nonzero bs).length then some ((nonzero bs).take n) else none := by
  have one : ∀ bs : List Byte, drawNonzero bs = none ∧ nonzero bs = [] ∨
      ∃ b rest, drawNonzero bs = some (b, rest) ∧ nonzero bs = b :: nonzero rest := by
    intro bs
    induction bs with
    | nil => exact .inl ⟨rfl, rfl⟩
    | cons b bs ih =>
      by_cases hb : b = 0
      · simpa [drawNonzero, nonzero, hb] using ih
      · exact .inr ⟨b, bs, by rw [drawNonzero, if_neg hb],
          List.filter_cons_of_pos (bne_iff_ne.2 hb)⟩
  induction n generalizing bs with
  | zero => simp [drawCoeffs]
  | succ n ih =>
    rcases one bs with ⟨h, e⟩ | ⟨b, rest, h, e⟩
    · simp [drawCoeffs, h, e]
    · by_cases hn : n ≤ (nonzero rest).length <;> simp [drawCoeffs, h, e, ih, hn]

theorem length_of_drawCoeffs (n : Nat) (bs cs : List Byte) (h : drawCoeffs n bs = some cs) :
    cs.length = n := by
  rw [drawCoeffs_eq] at h
  split at h
  · obtain rfl := Option.some.inj h; simp; assumption
  · cases h

theorem drawCoeffs_isNone_iff (n : Nat) (bs : List Byte) :
    (drawCoeffs n bs).isNone = true ↔ (nonzero bs).length < n := by
  rw [drawCoeffs_eq]
  split <;> simp <;> omega

/-! ### Operands -/

theorem count_lt (b : Byte) : count b < 256 := b.isLt

theorem count_pos (b : Byte) (h : b ≠ 0) : 0 < count b := by
  rcases Nat.eq_zero_or_pos (count b) with h0 | h0
  · exact absurd (BitVec.eq_of_toNat_eq (y := 0) h0) h
  · exact h0

@[simp] theorem length_abscissas (n : Nat) : (abscissas n).length = n := by simp [abscissas]

theorem checkK_none_iff (k : Byte) : checkK k = none ↔ k ≠ 0 := by
  unfold checkK; split <;> simp_all

theorem checkKn_none_iff (k n : Byte) : checkKn k n = none ↔ k ≠ 0 ∧ count k ≤ count n := by
  unfold checkKn
  split
  · rename_i h
    simp only [reduceCtorEq, false_iff, not_and, not_le]
    rintro hk
    rcases h with h | h
    · exact absurd h hk
    · subst h; exact count_pos k hk
  · rename_i h
    split <;> simp_all

theorem checkPlayers_none_iff (k m : Byte) : checkPlayers k m = none ↔ k ≠ 0 ∧ count k ≤ count m := by
  unfold checkPlayers
  split
  · rename_i h
    simp only [reduceCtorEq, false_iff, not_and, not_le]
    rintro hk
    rcases h with h | h
    · exact absurd h hk
    · subst h; exact count_pos k hk
  · rename_i h
    split <;> simp_all

theorem checkShares_none_iff (k m : Byte) : checkShares k m = none ↔ k ≠ 0 ∧ count k ≤ count m := by
  unfold checkShares
  split
  · simp_all
  · split <;> simp_all

/-! ### Shares and subshares -/

@[simp] theorem length_subshares (t : Tables) (coef xs : Memory) (k m : Nat) :
    (subshares t coef xs k m).length = m := by simp [subshares]

theorem State.writeShares_wf (s : State) (coef : Memory) (k n : Nat) (hx : s.xs.wf = true)
    (hy : s.ys.wf = true) :
    (s.writeShares coef k n).xs.wf = true ∧ (s.writeShares coef k n).ys.wf = true :=
  ⟨Memory.writeSeq_wf _ _ _ hx, Memory.writeSeq_wf _ _ _ hy⟩

/-! ### The entropy port, a host write -/

/-- A transfer either appends its byte to the bytes taken or changes nothing (10_state.md R35). -/
theorem State.takeEntropy_cases (s : State) (b : Byte) :
    (s.wantsEntropy = true ∧ s.takeEntropy b = { s with taken := s.taken ++ [b] }) ∨
    (s.wantsEntropy = false ∧ s.takeEntropy b = s) := by
  unfold State.takeEntropy
  cases h : s.wantsEntropy <;> simp

/-- What a CTRL write can do (R18). -/
theorem State.writeCtrl_cases (s : State) (v : Word) :
    (v.getLsbD 1 = true ∧ s.writeCtrl v = s.resetStep) ∨
    (v.getLsbD 1 = false ∧ s.writeCtrl v = { s with ie := v.getLsbD 0 }) := by
  unfold State.writeCtrl
  cases h : v.getLsbD 1 <;> simp

/-- Everything a host write can do to the block, the response apart (20_memory.md R38, R41, R43,
70_reset_and_hazards.md R117). -/
theorem State.writeLoc_cases (s : State) (l : Loc) (v : Word) :
    (l.writeError = true ∧ s.writeLoc l v = s) ∨
    (l = .ctrl ∧ s.writeLoc l v = s.writeCtrl v) ∨
    (l = .status ∧ s.writeLoc l v = s.writeStatus v) ∨
    (l = .cmd ∧ s.phase = .idle ∧ s.writeLoc l v = s.accept v) ∨
    ((∃ m b, l = .window m b ∧ m.readOnly = false ∧ s.phase = .idle ∧
      s.writeLoc l v = s.setMem m ((s.mem m).writeWord b v))) ∨
    ((l = .cmd ∨ ∃ m b, l = .window m b ∧ m.readOnly = false) ∧ s.busy = true ∧
      s.writeLoc l v = s.dropWrite) := by
  cases l with
  | id => exact .inl ⟨rfl, rfl⟩
  | result => exact .inl ⟨rfl, rfl⟩
  | reserved => exact .inl ⟨rfl, rfl⟩
  | misaligned => exact .inl ⟨rfl, rfl⟩
  | ctrl => exact .inr (.inl ⟨rfl, rfl⟩)
  | status => exact .inr (.inr (.inl ⟨rfl, rfl⟩))
  | cmd =>
    cases h : s.busy
    · exact .inr (.inr (.inr (.inl
        ⟨rfl, (State.busy_eq_false_iff s).1 h, by simp [State.writeLoc, h]⟩)))
    · exact .inr (.inr (.inr (.inr (.inr ⟨.inl rfl, rfl, by simp [State.writeLoc, h]⟩))))
  | window m b =>
    cases hm : m.readOnly
    · cases h : s.busy
      · exact .inr (.inr (.inr (.inr (.inl
          ⟨m, b, rfl, hm, (State.busy_eq_false_iff s).1 h, by simp [State.writeLoc, h, hm]⟩))))
      · exact .inr (.inr (.inr (.inr (.inr
          ⟨.inr ⟨m, b, rfl, hm⟩, rfl, by simp [State.writeLoc, h, hm]⟩))))
    · exact .inl ⟨hm, by simp [State.writeLoc, hm]⟩

end Sys2Proof.Machine
end

