-- ==== Sys2Proof/Laws/Exec.lean ====
section
/-! SUPPORT. What a completion and a step can do, said once. -/

namespace Sys2Proof.Machine

/-- The memories and tables of the reset state are in canonical form (entry 2). -/
theorem State.reset_memoriesWf : State.reset.memoriesWf = true := rfl

/-- The engine's turn is `engineMove` on the state with that turn used up. -/
theorem State.nextMove_of_engineNext (s : State) (rest : List Event) (h : s.engineNext rest) :
    s.nextMove = { s with events := rest }.engineMove := by
  rcases h with h | ⟨h, rfl⟩
  · simp [State.nextMove, h, State.eventMove]
  · have : ({ s with events := [] } : State) = s := by cases s; simp_all
    simp [State.nextMove, h, this]

/-- A step is the engine's turn or one other event, which ends in a known state. -/
theorem State.nextMove_cases (s : State) :
    (∃ rest, s.engineNext rest ∧ s.nextMove = { s with events := rest }.engineMove) ∨
    (∃ e rest t, s.events = e :: rest ∧ e ≠ .engine ∧ s.nextMove = .settled t ∧
      { s with events := rest }.eventMove e = .settled t) := by
  cases he : s.events with
  | nil => exact .inl ⟨[], .inr ⟨he, rfl⟩, s.nextMove_of_engineNext [] (.inr ⟨he, rfl⟩)⟩
  | cons e rest =>
    by_cases hE : e = .engine
    · subst hE
      exact .inl ⟨rest, .inl he, s.nextMove_of_engineNext rest (.inl he)⟩
    · refine .inr ⟨e, rest, ?_⟩
      cases e <;> first
        | exact absurd rfl hE
        | exact ⟨_, rfl, nofun, by simp only [State.nextMove, he, State.eventMove], rfl⟩

/-- Everything a completion can do: it fails, it waits for entropy with nothing changed, or it succeeds,
writing RESULT and data memories only (10_state.md R34, 60_exceptions.md R99, 70_reset_and_hazards.md
R119). -/
theorem exec_cases (i : Instr) (s : State) :
    (∃ e, exec i s = .next (s.failWith e)) ∨ exec i s = .next s ∨
    ∃ x y c xs ys b, exec i s =
      .next ({ s with rx := x, ry := y, coef := c, xs := xs, ys := ys, sub := b }.complete) ∧
      (s.memoriesWf = true → c.wf = true ∧ xs.wf = true ∧ ys.wf = true ∧ b.wf = true) := by
  have hw : s.memoriesWf = true →
      s.coef.wf = true ∧ s.xs.wf = true ∧ s.ys.wf = true ∧ s.sub.wf = true := by
    intro h; simp only [State.memoriesWf, Bool.and_eq_true] at h; tauto
  cases i with
  | nop => exact .inr (.inr ⟨s.rx, s.ry, s.coef, s.xs, s.ys, s.sub, rfl, hw⟩)
  | add a b => exact .inr (.inr ⟨_, _, s.coef, s.xs, s.ys, s.sub, rfl, hw⟩)
  | sub a b => exact .inr (.inr ⟨_, _, s.coef, s.xs, s.ys, s.sub, rfl, hw⟩)
  | mul a b => exact .inr (.inr ⟨_, _, s.coef, s.xs, s.ys, s.sub, rfl, hw⟩)
  | pow a b => exact .inr (.inr ⟨_, _, s.coef, s.xs, s.ys, s.sub, rfl, hw⟩)
  | exp a => exact .inr (.inr ⟨_, _, s.coef, s.xs, s.ys, s.sub, rfl, hw⟩)
  | log a => exact .inr (.inr ⟨_, _, s.coef, s.xs, s.ys, s.sub, rfl, hw⟩)
  | div a b =>
    simp only [exec, execDiv]
    cases h : gfDiv s.tables a b with
    | error e => exact .inl ⟨e, rfl⟩
    | ok q => exact .inr (.inr ⟨_, _, s.coef, s.xs, s.ys, s.sub, rfl, hw⟩)
  | genpoly k x =>
    simp only [exec, execGenpoly]
    cases checkK k with
    | some e => exact .inl ⟨e, rfl⟩
    | none =>
      cases drawCoeffs (count k - 1) s.taken with
      | none => exact .inr (.inl rfl)
      | some cs =>
        exact .inr (.inr ⟨s.rx, s.ry, _, s.xs, s.ys, s.sub, rfl,
          fun h => ⟨Memory.writeSeq_wf _ _ _ (hw h).1, (hw h).2⟩⟩)
  | peval k x =>
    simp only [exec, execPeval]
    cases checkK k with
    | some e => exact .inl ⟨e, rfl⟩
    | none => exact .inr (.inr ⟨_, _, s.coef, s.xs, s.ys, s.sub, rfl, hw⟩)
  | evsh k n =>
    simp only [exec, execEvsh]
    cases checkKn k n with
    | some e => exact .inl ⟨e, rfl⟩
    | none => exact .inr (.inr ⟨s.rx, s.ry, s.coef, _, _, s.sub, rfl,
        fun h => ⟨(hw h).1, Memory.writeSeq_wf _ _ _ (hw h).2.1,
          Memory.writeSeq_wf _ _ _ (hw h).2.2.1, (hw h).2.2.2⟩⟩)
  | gensh k n x =>
    simp only [exec, execGensh]
    cases checkKn k n with
    | some e => exact .inl ⟨e, rfl⟩
    | none =>
      cases drawCoeffs (count k - 1) s.taken with
      | none => exact .inr (.inl rfl)
      | some cs => exact .inr (.inr ⟨s.rx, s.ry, _, _, _, s.sub, rfl,
        fun h => ⟨rfl, Memory.writeSeq_wf _ _ _ (hw h).2.1,
          Memory.writeSeq_wf _ _ _ (hw h).2.2.1, (hw h).2.2.2⟩⟩)
  | recon k m =>
    simp only [exec, execRecon]
    cases checkShares k m with
    | some e => exact .inl ⟨e, rfl⟩
    | none =>
      cases interpolate s.tables s.xs s.ys (count k) (count k) with
      | error e => exact .inl ⟨e, rfl⟩
      | ok q => exact .inr (.inr ⟨_, _, s.coef, s.xs, s.ys, s.sub, rfl, hw⟩)
  | gensub k m =>
    simp only [exec, execGensub]
    cases checkPlayers k m with
    | some e => exact .inl ⟨e, rfl⟩
    | none =>
      cases drawCoeffs (count k - 1) s.taken with
      | none => exact .inr (.inl rfl)
      | some cs => exact .inr (.inr ⟨s.rx, s.ry, _, s.xs, s.ys, _, rfl,
        fun h => ⟨rfl, (hw h).2.1, (hw h).2.2.1, Memory.writeSeq_wf _ _ _ (hw h).2.2.2⟩⟩)
  | combine x y n =>
    simp only [exec, execCombine]
    cases checkSubshares n with
    | some e => exact .inl ⟨e, rfl⟩
    | none => exact .inr (.inr ⟨_, _, s.coef, s.xs, s.ys, s.sub, rfl, hw⟩)

end Sys2Proof.Machine
end

