-- ==== Sys2Proof/Laws/Gf.lean ====
section
/-! SUPPORT. The laws of doubling, on which the products of 40_field.md R65 rest. -/

namespace Sys2Proof.Machine

/-- Doubling is a shift, reduced by 0x1D where bit 7 was set (40_field.md R65). -/
theorem gfDouble_eq (a : Byte) : gfDouble a = (a <<< 1) ^^^ (if a.getLsbD 7 then 0x1D else 0) := by
  revert a; decide +kernel

/-- Doubling distributes over addition. -/
theorem gfDouble_xor (a b : Byte) : gfDouble (a ^^^ b) = gfDouble a ^^^ gfDouble b := by
  rw [gfDouble_eq, gfDouble_eq, gfDouble_eq, BitVec.shiftLeft_xor_distrib, BitVec.getLsbD_xor]
  have e : ∀ x y : Byte, x ^^^ y = x ^^^ 29#8 ^^^ (y ^^^ 29#8) := by
    intro x y
    rw [BitVec.xor_assoc, BitVec.xor_comm y, ← BitVec.xor_assoc (29#8), BitVec.xor_self]; simp
  cases a.getLsbD 7 <;> cases b.getLsbD 7 <;> simp
  · ac_rfl
  · ac_rfl
  · exact e _ _

/-- A byte is twice its half, plus its bit 0. -/
theorem gfDouble_ushiftRight (x : Byte) :
    gfDouble (x >>> 1) ^^^ (if x.getLsbD 0 then 1 else 0) = x := by
  revert x; decide +kernel

end Sys2Proof.Machine
end

