-- ==== Sys2Proof/Laws/PerInstr.lean ====
section
/-! SUPPORT. What holds of every command as syntax, one lemma per constructor. -/

namespace Sys2Proof.Laws.OpField

/-- The OP value of each command's row (30_encoding.md R57). -/
def opValue : Instr → Byte
  | .nop => 0x00
  | .add _ _ => 0x01
  | .sub _ _ => 0x02
  | .mul _ _ => 0x03
  | .div _ _ => 0x04
  | .pow _ _ => 0x05
  | .exp _ => 0x06
  | .log _ => 0x07
  | .genpoly _ _ => 0x10
  | .peval _ _ => 0x11
  | .evsh _ _ => 0x12
  | .gensh _ _ _ => 0x13
  | .recon _ _ => 0x20
  | .gensub _ _ => 0x30
  | .combine _ _ _ => 0x31

/-- The encoded word carries the row's OP value in bits 7:0. -/
def Statement (i : Instr) : Prop := fieldOP (encode i) = opValue i

theorem nop : Statement .nop := by simp [Statement, encode, opValue]
theorem add (a b : Byte) : Statement (.add a b) := by simp [Statement, encode, opValue]
theorem sub (a b : Byte) : Statement (.sub a b) := by simp [Statement, encode, opValue]
theorem mul (a b : Byte) : Statement (.mul a b) := by simp [Statement, encode, opValue]
theorem div (a b : Byte) : Statement (.div a b) := by simp [Statement, encode, opValue]
theorem pow (a e : Byte) : Statement (.pow a e) := by simp [Statement, encode, opValue]
theorem exp (i : Byte) : Statement (.exp i) := by simp [Statement, encode, opValue]
theorem log (v : Byte) : Statement (.log v) := by simp [Statement, encode, opValue]
theorem genpoly (k x : Byte) : Statement (.genpoly k x) := by simp [Statement, encode, opValue]
theorem peval (k x : Byte) : Statement (.peval k x) := by simp [Statement, encode, opValue]
theorem evsh (k n : Byte) : Statement (.evsh k n) := by simp [Statement, encode, opValue]
theorem gensh (k n x : Byte) : Statement (.gensh k n x) := by simp [Statement, encode, opValue]
theorem recon (k m : Byte) : Statement (.recon k m) := by simp [Statement, encode, opValue]
theorem gensub (k m : Byte) : Statement (.gensub k m) := by simp [Statement, encode, opValue]
theorem combine (x y c : Byte) : Statement (.combine x y c) := by
  simp [Statement, encode, opValue]

end Sys2Proof.Laws.OpField
end

