-- ==== Sys2Proof/Tests/Slice0.lean ====
section
/-! SUPPORT. The model's own tests. The words are written out from 30_encoding.md R54 and R57, the expected
values are the rows of 95_test_vectors.md; then one witness for each statement that has hypotheses. -/

open Sys2Proof Sys2Proof.Machine Sys2Proof.Claims

namespace Sys2Proof.Tests

/-! ### Helpers -/

/-- The state of R114 after init completes: "reset state" in 95_test_vectors.md. -/
def ready : State := State.reset.initComplete

/-- A memory that starts with the bytes given. -/
def mem (bs : List Byte) : Memory := Memory.zero.writeSeq 0 bs

/-- `s` with the word `w` in flight, the bytes of `bs` taken, and the engine's turn next. -/
def inFlight (s : State) (w : Word) (bs : List Byte) : State :=
  { s.accept w with taken := bs, events := [.engine] }

/-- `s` with one event to come. -/
def facing (s : State) (e : Event) : State := { s with events := [e] }

/-- The state one step later. -/
def after (s : State) : State :=
  match step s with
  | .next t => t
  | .fault _ => s
  | .refused _ => s

/-- STATUS, RX and RY after the completion of `w`. -/
def outcome (s : State) (w : Word) (bs : List Byte) : Word × Byte × Byte :=
  let t := after (inFlight s w bs)
  (t.statusWord, t.rx, t.ry)

/-- The first `n` entries of a memory. -/
def front (m : Memory) (n : Nat) : List Byte := (List.range n).map (item m)

/-! ### Well-formedness: each check refuses an ill-formed line (R61) -/

theorem test_wf_accepts : (AsmLine.mk .add [0, 255]).wf = true := by decide
theorem test_wf_countOk_refuses : (AsmLine.mk .add [1]).countOk = false := by decide
theorem test_wf_rangeOk_refuses : (AsmLine.mk .log [256]).rangeOk = false := by decide
theorem test_assemble_sub : assemble ⟨.sub, [0x0F, 0xF0]⟩ = some (.sub 0x0F 0xF0) := by decide
theorem test_assemble_refuses_count : assemble ⟨.nop, [0]⟩ = none := by decide
theorem test_assemble_refuses_range : assemble ⟨.gensh, [3, 5, 256]⟩ = none := by decide

/-! ### Decoding: one word for each constructor, written out bit by bit as C, B, A, OP (R54, R57) -/

theorem test_decode_nop : decode 0b00000000_00000000_00000000_00000000 = .ok .nop := by decide
theorem test_decode_add :
    decode 0b00000000_11001010_01010011_00000001 = .ok (.add 0x53 0xCA) := by decide
theorem test_decode_sub :
    decode 0b00000000_11110000_00001111_00000010 = .ok (.sub 0x0F 0xF0) := by decide
theorem test_decode_mul :
    decode 0b00000000_10000000_00000010_00000011 = .ok (.mul 0x02 0x80) := by decide
theorem test_decode_div :
    decode 0b00000000_11001010_10001111_00000100 = .ok (.div 0x8F 0xCA) := by decide
theorem test_decode_pow :
    decode 0b00000000_11111110_00000011_00000101 = .ok (.pow 0x03 0xFE) := by decide
theorem test_decode_exp : decode 0b00000000_00000000_01100100_00000110 = .ok (.exp 0x64) := by decide
theorem test_decode_log : decode 0b00000000_00000000_00011101_00000111 = .ok (.log 0x1D) := by decide
theorem test_decode_genpoly :
    decode 0b00000000_00010001_00000011_00010000 = .ok (.genpoly 3 0x11) := by decide
theorem test_decode_peval :
    decode 0b00000000_00000010_00000100_00010001 = .ok (.peval 4 2) := by decide
theorem test_decode_evsh :
    decode 0b00000000_00000101_00000011_00010010 = .ok (.evsh 3 5) := by decide
theorem test_decode_gensh :
    decode 0b11000101_00000011_00000010_00010011 = .ok (.gensh 2 3 0xC5) := by decide
theorem test_decode_recon :
    decode 0b00000000_00000101_00000011_00100000 = .ok (.recon 3 5) := by decide
theorem test_decode_gensub :
    decode 0b00000000_00000011_00000010_00110000 = .ok (.gensub 2 3) := by decide
theorem test_decode_combine :
    decode 0b00000011_00111011_00000001_00110001 = .ok (.combine 1 0x3B 3) := by decide
theorem test_decode_reserved_opcode : decode 0x00001108 = .error (.reservedOpcode 0x08) := by decide
theorem test_decode_reserved_field : decode 0x09050012 = .error (.reservedField 0x12) := by decide
theorem test_encode_gensh : encode (.gensh 2 3 0xC5) = 0xC5030213 := by decide
theorem test_table_word : decodeTableWord 32 0x00CA5301 = some (.add 0x53 0xCA) := by decide
theorem test_table_word_too_long : decodeTableWord 40 0x100000001 = none := by decide

/-! ### One step of each command (95_test_vectors.md L2.1 to L2.4) -/

theorem test_first_step_runs_the_placed_word :
    (after (State.reset.withFetchWord 32 0x00808003)).ry = 0x13 := by decide
theorem test_nop : outcome ready 0x00000000 [] = (0x00000005, 0, 0) := by decide
theorem test_add : outcome ready 0x00CA5301 [] = (0x00000005, 0, 0x99) := by decide
theorem test_sub : outcome ready 0x00F00F02 [] = (0x00000005, 0, 0xFF) := by decide
theorem test_mul : outcome ready 0x00808003 [] = (0x00000005, 0, 0x13) := by decide
theorem test_mul_zero : outcome ready 0x00530003 [] = (0x00000005, 0, 0) := by decide
theorem test_div : outcome ready 0x00020104 [] = (0x00000005, 0, 0x8E) := by decide +kernel
theorem test_div_zero_by_zero : outcome ready 0x00000004 [] = (0x0000050D, 0, 0) := by decide
theorem test_pow : outcome ready 0x00080205 [] = (0x00000005, 0, 0x1D) := by decide +kernel
theorem test_pow_zero_zero : outcome ready 0x00000005 [] = (0x00000005, 0, 1) := by decide
theorem test_exp : outcome ready 0x00006406 [] = (0x00000005, 0, 0x11) := by decide
theorem test_exp_top : outcome ready 0x0000FF06 [] = (0x00000005, 0, 1) := by decide +kernel
theorem test_log : outcome ready 0x00005307 [] = (0x00000005, 0, 0xCE) := by decide
theorem test_log_zero : outcome ready 0x00000007 [] = (0x00000005, 0, 0) := by decide +kernel
theorem test_illegal : outcome ready 0x01000001 [] = (0x0000070D, 0, 0) := by decide

theorem test_genpoly :
    front (after (inFlight ready 0x00110310 [0x00, 0x42, 0x9C])).coef 4 = [0x11, 0x42, 0x9C, 0] := by
  decide
theorem test_genpoly_stalls :
    (after (inFlight ready 0x00050210 [0x00, 0x00, 0x00])).statusWord = 0x00000002 := by decide
theorem test_peval :
    outcome { ready with coef := mem [1, 2, 3, 4] } 0x00020411 [] = (0x00000005, 2, 0x29) := by decide +kernel
theorem test_evsh :
    front (after (inFlight { ready with coef := mem [0x11, 0x42, 0x9C] } 0x00050312 [])).ys 5 =
      [0xCF, 0xDF, 0x01, 0x31, 0xEF] := by decide +kernel
theorem test_gensh :
    let t := after (inFlight ready 0xC5030213 [0x00, 0x39])
    (front t.xs 3, front t.ys 3, front t.coef 2) = ([1, 2, 3], [0xFC, 0xB7, 0x8E], [0, 0]) := by decide +kernel
theorem test_gensh_failure_keeps_coef :
    let t := after (inFlight { ready with coef := mem [1, 2, 3] } 0x09050613 [])
    (t.statusWord, front t.coef 3) = (0x0000020D, [1, 2, 3]) := by decide
theorem test_recon :
    outcome { ready with xs := mem [5, 1, 3], ys := mem [0xEF, 0xCF, 0x01] } 0x00030320 [] =
      (0x00000005, 0, 0x11) := by decide +kernel
theorem test_recon_repeated_abscissa :
    outcome { ready with xs := mem [1, 2, 1] } 0x00030320 [] = (0x0000050D, 0, 0) := by decide
theorem test_gensub :
    let t := after (inFlight { ready with xs := mem [1, 2], coef := mem [0xAA, 0xBB, 0xCC] }
      0x00020230 [0x03])
    (front t.sub 2, front t.coef 3) = ([0x03, 0x06], [0, 0, 0]) := by decide +kernel
theorem test_gensub_too_few : outcome ready 0x00030430 [] = (0x0000030D, 0, 0) := by decide
theorem test_combine :
    outcome { ready with sub := mem [0x05, 0xC3, 0x77] } 0x033B0131 [] = (0x00000005, 1, 0x8A) := by
  decide
theorem test_combine_none : outcome ready 0x00440731 [] = (0x0000060D, 0, 0) := by decide

/-! ### The host port, the entropy port, reset (95_test_vectors.md L2.5, L3) -/

theorem test_read_id : (after (facing ready (rd 0x000 0))).resp = some (.read false 0x53530100) := by
  decide
theorem test_read_reserved : (after (facing ready (rd 0x0FC 0))).resp = some (.read true 0) := by decide
theorem test_read_misaligned : (after (facing ready (rd 0x101 0))).resp = some (.read true 0) := by
  decide
theorem test_read_exp : (after (facing ready (rd 0x500 0))).resp = some (.read false 0x08040201) := by
  decide
theorem test_read_log_top :
    (after (facing ready (rd 0x6FC 0))).resp = some (.read false 0xAF5850A8) := by decide +kernel
theorem test_write_log_refused : after (facing ready (wr 0x6FC 0)) =
    { ready with resp := some (.write true) } := by decide +kernel
theorem test_write_window_top :
    (List.range 4).map (fun j => item (after (facing ready (wr 0x1FC 0xDDCCBBAA))).coef (252 + j)) =
      [0xAA, 0xBB, 0xCC, 0xDD] := by decide
theorem test_write_ctrl : (after (facing ready (wr 0x004 0xFFFFFFFD))).ctrlWord = 1 := by decide
theorem test_write_status_keeps :
    (after (facing { ready with done := true, ovr := true } (wr 0x008 0xFFFFFFEB))).statusWord =
      0x00000015 := by decide
theorem test_ack : (after (facing { ready with done := true, ovr := true } ack)).statusWord =
    0x00000001 := by decide
theorem test_busy_write_dropped :
    (after (facing (inFlight ready 0x00070210 []) (wr 0x00C 0x00020101))).statusWord = 0x00000012 := by
  decide
theorem test_busy_read_draws :
    (after (facing (inFlight ready 0x00070210 []) (rd 0x100 0x0BADCAFE))).resp =
      some (.read false 0x0BADCAFE) := by decide
theorem test_soft_reset :
    (after (facing { inFlight ready 0x00070210 [] with ie := true, ovr := true } (wr 0x004 3))).statusWord
      = 0x00000002 := by decide
theorem test_init_completes : (after State.reset).statusWord = 0x00000001 := by decide
theorem test_entropy_not_observed : (after (facing ready (.entropy 0x39))).taken = [] := by decide
theorem test_entropy_taken :
    (after (facing (inFlight ready 0x00070210 []) (.entropy 0x39))).taken = [0x39] := by decide
theorem test_table_build_step :
    buildLoop 2 254 0x8E Memory.zero Memory.zero =
      (⟨[(254, 0x8E), (255, 0x01)]⟩, ⟨[(0x8E, 254)]⟩) := by decide

/-! ### Witnesses: for each statement with hypotheses, states and operands that meet them together -/

theorem ready_built : ready.tablesBuilt := ⟨rfl, rfl⟩

theorem ready_wf : ready.memoriesWf = true := by
  simp [State.memoriesWf, ready, State.initComplete, expTable_wf, logTable_wf]

/-- DIV 5, 0 in flight in a state of the invariant. -/
theorem inFlight_div_inv : (inFlight ready 0x00000504 []).Inv :=
  ⟨ready_wf, fun _ => ready_built, fun _ => ⟨rfl, rfl⟩, nofun, rfl⟩

theorem distinct_two (m : Memory) (h : item m 0 ≠ item m 1) : distinct m 2 := by
  intro p q hpq hq
  obtain ⟨rfl, rfl⟩ : p = 0 ∧ q = 1 := by omega
  exact h

theorem witness_OpcodeRowsSelectTheCommand :
    0 < opcodeMap.length ∧ 14 < opcodeMap.length ∧ ¬ 15 < opcodeMap.length := by decide

/-- The first and last word of each reserved range, and each kind of reserved field. -/
theorem witness_IllegalWordsFailAtCompletion :
    illegal 0x08 ∧ illegal 0x0F ∧ illegal 0x14 ∧ illegal 0x1F ∧ illegal 0x21 ∧ illegal 0x2F ∧
    illegal 0x32 ∧ illegal 0xFF ∧ illegal 0x00000100 ∧ illegal 0x01000001 ∧ illegal 0x01000030 ∧
    illegal 0x00010006 ∧ illegal 0x01000007 ∧ ¬ illegal 0xFFFFFF13 ∧ ¬ illegal 0xFFFFFF31 := by
  refine ⟨?_, ?_, ?_, ?_, ?_, ?_, ?_, ?_, ?_, ?_, ?_, ?_, ?_, ?_, ?_⟩ <;> unfold illegal <;> decide

theorem witness_IllegalWords_states :
    (facing ready (.hostWrite 0x00C 0x08)).phase = .idle ∧
    (facing ready (.hostWrite 0x00C 0x08)).events = .hostWrite 0x00C 0x08 :: [] ∧
    (inFlight ready 0x08 []).phase = .exec 0x08 ∧ (inFlight ready 0x08 []).engineNext [] ∧
    (facing (inFlight ready 0x08 []) (.entropy 1)).events = .entropy 1 :: [] :=
  ⟨rfl, rfl, rfl, .inl rfl, rfl⟩

/-- A line with three operands, one with none, and a pseudo-instruction. -/
theorem witness_AssemblerPlacesItsOperands :
    assemble ⟨.gensh, [2, 3, 0xC5]⟩ = some (.gensh 2 3 0xC5) ∧
    AsmOp.gensh ∉ [AsmOp.inv, .sqr, .movr, .neg] ∧ assemble ⟨.nop, []⟩ = some .nop ∧
    AsmOp.nop ∉ [AsmOp.inv, .sqr, .movr, .neg] ∧ assemble ⟨.neg, [0x5A]⟩ = some (.sub 0 0x5A) := by decide

theorem witness_PseudoInstructionsGiveTheirResults :
    ready.tablesBuilt ∧ (0x53 : Byte) ≠ 0 ∧ (0x00 : Byte) = 0 := ⟨ready_built, by decide, rfl⟩

theorem witness_StepRunsTheDecodedCommand :
    (inFlight ready 0x00808003 []).phase = .exec 0x00808003 ∧
    decode 0x00808003 = .ok (.mul 0x80 0x80) ∧ (inFlight ready 0x00808003 []).engineNext [] ∧
    ({ inFlight ready 0x00808003 [] with events := [] } : State).engineNext [] :=
  ⟨rfl, by decide, .inl rfl, .inr ⟨rfl, rfl⟩⟩

theorem witness_MulGivesThePeasantProduct : ready.tablesBuilt := ready_built
theorem witness_DivGivesTheOnlyQuotient :
    ready.tablesBuilt ∧ (0xFF : Byte) ≠ 0 ∧ (0x00 : Byte) = 0 := ⟨ready_built, by decide, rfl⟩
theorem witness_PowIsRepeatedMultiplication : ready.tablesBuilt := ready_built
theorem witness_PowClosedForms : ready.tablesBuilt ∧ (0x01 : Byte) ≠ 0 := ⟨ready_built, by decide⟩
theorem witness_ExpAndLogReadTheirTables :
    ready.tablesBuilt ∧ (0x01 : Byte) ≠ 0 ∧ (0x00 : Byte) = 0 := ⟨ready_built, by decide, rfl⟩

theorem witness_TablesInvertEachOther :
    (0x01 : Byte) ≠ 0 ∧ (254 : Byte).toNat ≤ 254 ∧ State.reset.phase = .init ∧
    (facing State.reset .engine).phase = .init ∧ State.reset.engineNext [] ∧
    (facing State.reset .engine).engineNext [] ∧ (∃ t, step State.reset = .next t) ∧
    ∃ t, step (facing State.reset .engine) = .next t :=
  ⟨by decide, by decide, rfl, rfl, .inr ⟨rfl, rfl⟩, .inl rfl, ⟨_, rfl⟩, ⟨_, rfl⟩⟩

theorem witness_ArithmeticUnitIsAField : (0x01 : Byte) ≠ 0 := by decide

theorem witness_ResultCommandsLeaveTheMemories :
    storesNothing .nop = true ∧ (∃ t, exec .nop ready = .next t) ∧
    storesNothing (.div 5 0) = true ∧ ∃ t, exec (.div 5 0) ready = .next t :=
  ⟨rfl, ⟨_, rfl⟩, rfl, ⟨_, rfl⟩⟩

/-- One state and one entry just outside the stored ones for each storing command. -/
theorem witness_StoringCommandsLeaveOtherEntries :
    ready.memoriesWf = true ∧
    (storesNothing (.genpoly 1 7) = false ∧ (∃ t, exec (.genpoly 1 7) ready = .next t) ∧
      ¬ storesTo (.genpoly 1 7) .coef 1) ∧
    (storesNothing (.evsh 1 1) = false ∧ (∃ t, exec (.evsh 1 1) ready = .next t) ∧
      ¬ storesTo (.evsh 1 1) .xs 1 ∧ ¬ storesTo (.evsh 1 1) .coef 0) ∧
    (storesNothing (.gensh 1 1 7) = false ∧ (∃ t, exec (.gensh 1 1 7) ready = .next t) ∧
      ¬ storesTo (.gensh 1 1 7) .ys 1) ∧
    storesNothing (.gensub 1 1) = false ∧ (∃ t, exec (.gensub 1 1) ready = .next t) ∧
      ¬ storesTo (.gensub 1 1) .sub 1 ∧ ¬ storesTo (.gensub 1 1) .xs 0 :=
  ⟨ready_wf, ⟨rfl, ⟨_, rfl⟩, by unfold storesTo; decide⟩,
    ⟨rfl, ⟨_, rfl⟩, by unfold storesTo; decide, id⟩,
    ⟨rfl, ⟨_, rfl⟩, by unfold storesTo; decide⟩, rfl, ⟨_, rfl⟩, by unfold storesTo; decide, id⟩

theorem witness_FailureIsAllOrNothing :
    (inFlight ready 0x00000504 []).Inv ∧
    (inFlight ready 0x00000504 []).phase = .exec 0x00000504 ∧
    (inFlight ready 0x00000504 []).engineNext [] ∧
    ∃ t, step (inFlight ready 0x00000504 []) = .next t ∧ t.errcode ≠ .ok :=
  ⟨inFlight_div_inv, rfl, .inl rfl, _, rfl, by decide⟩

/-- Each failure of R98, and a command with none and its draws at hand. -/
theorem witness_CommandsFailExactlyAsListed :
    ready.tablesBuilt ∧ FailsWith ready (.div 5 0) .divisionByZero ∧
    FailsWith ready (.genpoly 0 5) .invalidThreshold ∧ FailsWith ready (.peval 0 5) .invalidThreshold ∧
    FailsWith ready (.evsh 3 0) .invalidThreshold ∧
    FailsWith ready (.evsh 2 1) .thresholdExceedsShareCount ∧
    FailsWith ready (.gensh 0 5 9) .invalidThreshold ∧
    FailsWith ready (.gensh 6 5 9) .thresholdExceedsShareCount ∧
    FailsWith ready (.recon 0 0) .invalidThreshold ∧ FailsWith ready (.recon 3 2) .insufficientShares ∧
    FailsWith ready (.recon 2 2) .divisionByZero ∧ FailsWith ready (.gensub 2 0) .invalidThreshold ∧
    FailsWith ready (.gensub 4 3) .tooFewPlayers ∧
    FailsWith ready (.combine 7 0x44 0) .emptySubshareSet ∧
    (∀ e, ¬ FailsWith ready (.genpoly 1 5) e) ∧ drawsNeeded (.genpoly 1 5) ≤ (useful ready.taken).length := by
  refine ⟨ready_built, ⟨rfl, rfl⟩, ⟨rfl, rfl⟩, ⟨rfl, rfl⟩, .inl ⟨.inr rfl, rfl⟩,
    .inr ⟨by decide, by decide, by decide, rfl⟩, .inl ⟨.inl rfl, rfl⟩,
    .inr ⟨by decide, by decide, by decide, rfl⟩, .inl ⟨rfl, rfl⟩,
    .inr (.inl ⟨by decide, by decide, rfl⟩),
    .inr (.inr ⟨by decide, by decide, fun h => h 0 1 (by decide) (by decide) rfl, rfl⟩),
    .inl ⟨.inr rfl, rfl⟩, .inr ⟨by decide, by decide, by decide, rfl⟩, ⟨rfl, rfl⟩, ?_, by decide⟩
  intro e h
  exact absurd h.1 (by decide)

/-- k at both ends of its range. -/
theorem witness_GenpolyStoresSecretAndDraws :
    ready.coef.wf = true ∧ (1 : Byte) ≠ 0 ∧ (1 : Byte).toNat - 1 ≤ (useful []).length ∧
    (255 : Byte) ≠ 0 ∧ (255 : Byte).toNat - 1 ≤ (useful (List.replicate 254 1)).length := by
  decide +kernel

theorem witness_PevalGivesThePolynomialValue : ready.tablesBuilt ∧ (1 : Byte) ≠ 0 :=
  ⟨ready_built, by decide⟩

theorem witness_EvshWritesTheShares :
    ready.memoriesWf = true ∧ ready.tablesBuilt ∧ (255 : Byte) ≠ 0 ∧
    (255 : Byte).toNat ≤ (255 : Byte).toNat := ⟨ready_wf, ready_built, by decide, by decide⟩

theorem witness_GenshSharesTheSecretAndClears :
    ready.memoriesWf = true ∧ ready.tablesBuilt ∧ (2 : Byte) ≠ 0 ∧ (2 : Byte).toNat ≤ (3 : Byte).toNat ∧
    (2 : Byte).toNat - 1 ≤ (useful (inFlight ready 0xC5030213 [0x00, 0x39]).taken).length :=
  ⟨ready_wf, ready_built, by decide, by decide, by decide⟩

theorem witness_GenshIgnoresOldCoefficients :
    ready.memoriesWf = true ∧ (mem [1, 2, 3]).wf = true ∧ (1 : Byte) ≠ 0 ∧
    (1 : Byte).toNat ≤ (1 : Byte).toNat ∧ (1 : Byte).toNat - 1 ≤ (useful ready.taken).length :=
  ⟨ready_wf, by decide, by decide, by decide, by decide⟩

theorem witness_ReconGivesTheConstantTerm :
    let s := { ready with xs := mem [1, 3], ys := mem [0x8A, 0xD7] }
    s.tablesBuilt ∧ (2 : Byte) ≠ 0 ∧ (2 : Byte).toNat ≤ (2 : Byte).toNat ∧
    distinct s.xs (2 : Byte).toNat :=
  ⟨ready_built, by decide, by decide, distinct_two _ (by decide)⟩

theorem witness_ReconAtAZeroAbscissa :
    let s := { ready with xs := mem [0, 1], ys := mem [0x44, 0x99] }
    s.tablesBuilt ∧ (2 : Byte) ≠ 0 ∧ (2 : Byte).toNat ≤ (2 : Byte).toNat ∧
    distinct s.xs (2 : Byte).toNat ∧ 0 < (2 : Byte).toNat ∧ item s.xs 0 = 0 :=
  ⟨ready_built, by decide, by decide, distinct_two _ (by decide), by decide, by decide⟩

/-- The secret 0x2A under 0x2A + 0x11 x (program P3), shares 3 and 2 taken in that order. -/
theorem witness_AnyKSharesReconstructTheSecret :
    let s := { ready with coef := mem [0x2A, 0x11], taken := [0x11] }
    let u := { ready with xs := mem [3, 2], ys := mem [0x19, 0x08] }
    let f : Nat → Nat := fun i => 2 - i
    s.memoriesWf = true ∧ s.tablesBuilt ∧ u.tablesBuilt ∧ (2 : Byte) ≠ 0 ∧
    (2 : Byte).toNat ≤ (3 : Byte).toNat ∧ (∀ i, i < (2 : Byte).toNat → f i < (3 : Byte).toNat) ∧
    (∀ i j, i < j → j < (2 : Byte).toNat → f i ≠ f j) ∧
    (∃ t, exec (.evsh 2 3) s = .next t ∧
      ∀ i, i < (2 : Byte).toNat → item u.xs i = item t.xs (f i) ∧ item u.ys i = item t.ys (f i)) ∧
    (2 : Byte).toNat - 1 ≤ (useful s.taken).length ∧
    ∃ t, exec (.gensh 2 3 0x2A) s = .next t ∧
      ∀ i, i < (2 : Byte).toNat → item u.xs i = item t.xs (f i) ∧ item u.ys i = item t.ys (f i) := by
  refine ⟨?_, ready_built, ready_built, by decide, by decide, ?_, ?_, ⟨_, rfl, by decide +kernel⟩,
    by decide, ⟨_, rfl, by decide +kernel⟩⟩
  · have h : (mem [0x2A, 0x11]).wf = true := by decide
    have r := ready_wf
    simp only [State.memoriesWf, Bool.and_eq_true] at r ⊢
    exact ⟨⟨⟨⟨⟨h, r.1.1.1.1.2⟩, r.1.1.1.2⟩, r.1.1.2⟩, r.1.2⟩, r.2⟩
  · intro i hi
    change 2 - i < 3
    omega
  · intro i j hij hj
    change j < 2 at hj
    change 2 - i ≠ 2 - j
    omega

theorem witness_GensubWritesZeroConstantShares :
    ready.memoriesWf = true ∧ ready.tablesBuilt ∧ (2 : Byte) ≠ 0 ∧ (2 : Byte).toNat ≤ (3 : Byte).toNat ∧
    (2 : Byte).toNat - 1 ≤ (useful (inFlight ready 0x00030230 [0x05]).taken).length :=
  ⟨ready_wf, ready_built, by decide, by decide, by decide⟩

theorem witness_CombineAddsTheSubshares : (1 : Byte) ≠ 0 ∧ (255 : Byte) ≠ 0 := by decide

/-- The renewed shares 1 and 3 of program P3, with its three masks. -/
theorem witness_RenewalPreservesTheSecret :
    let s := { ready with xs := mem [1, 3], ys := mem [0x8A, 0xD7] }
    let c : Nat → Byte := fun j => [0x2A, 0x11].getD j 0
    let qs : List (Nat → Byte) := [fun j => [0, 0x05].getD j 0, fun j => [0, 0xC3].getD j 0,
      fun j => [0, 0x77].getD j 0]
    s.tablesBuilt ∧ (2 : Byte) ≠ 0 ∧ distinct s.xs (2 : Byte).toNat ∧ (∀ q ∈ qs, q 0 = 0) ∧
    ∀ i, i < (2 : Byte).toNat → item s.ys i =
      (qs.map fun q => horner q (2 : Byte).toNat (item s.xs i)).foldr (· ^^^ ·)
        (horner c (2 : Byte).toNat (item s.xs i)) :=
  ⟨ready_built, by decide, distinct_two _ (by decide), by decide, by decide +kernel⟩

theorem witness_EntropyIsTakenOnlyWhenNeeded :
    let s := facing (inFlight ready 0x00070210 [0x00]) (.entropy 0x39)
    let d := facing (inFlight ready 0x00070210 [0x39]) (.entropy 0x39)
    s.events = .entropy 0x39 :: [] ∧ s.phase = .exec 0x00070210 ∧
    (useful s.taken).length < needed 0x00070210 ∧ d.events = .entropy 0x39 :: [] ∧
    ∀ w, d.phase = .exec w → needed w ≤ (useful d.taken).length :=
  ⟨rfl, rfl, by decide, rfl, fun w h => by cases h; decide⟩

/-- A stalled GENPOLY: the reset, another event, the engine's turn. -/
theorem witness_StalledCommandStaysInFlight :
    let s := inFlight ready 0x00070210 [0x00]
    s.phase = .exec 0x00070210 ∧ (useful s.taken).length < needed 0x00070210 ∧
    (∃ t, step (facing s .hardwareReset) = .next t) ∧ isReset .hardwareReset = true ∧
    (∃ t, step (facing s (wr 0x004 1)) = .next t) ∧ isReset (wr 0x004 1) = false ∧
    isReset (wr 0x004 2) = true ∧ s.engineNext [] ∧ ∃ t, step s = .next t :=
  ⟨rfl, by decide, ⟨_, rfl⟩, rfl, ⟨_, rfl⟩, by decide, by decide, .inl rfl, ⟨_, rfl⟩⟩

theorem witness_AcceptanceClearsTheOutcome :
    (facing ready (.hostWrite 0x00C 0xFFFFFFFF)).phase = .idle ∧
    (facing ready (.hostWrite 0x00C 0xFFFFFFFF)).events = .hostWrite 0x00C 0xFFFFFFFF :: [] :=
  ⟨rfl, rfl⟩

theorem witness_PhaseMovesOnlyAsListed :
    (∃ t, step State.reset = .next t) ∧ (∃ t, step (facing ready (wr 0x00C 0)) = .next t) ∧
    (∃ t, step (inFlight ready 0 []) = .next t) ∧ ∃ t, step (facing ready .hardwareReset) = .next t :=
  ⟨⟨_, rfl⟩, ⟨_, rfl⟩, ⟨_, rfl⟩, ⟨_, rfl⟩⟩

theorem witness_InitBuildsTablesAndClears :
    State.reset.phase = .init ∧ State.reset.engineNext [] := ⟨rfl, .inr ⟨rfl, rfl⟩⟩

theorem witness_ResetsAbandonTheCommand :
    (2 : Word).getLsbD 1 = true ∧
    (facing (inFlight ready 0x00070210 []) .hardwareReset).events = .hardwareReset :: [] ∧
    (facing (inFlight ready 0x00070210 []) (.hostWrite 0x004 2)).events = .hostWrite 0x004 2 :: [] ∧
    (afterReset (inFlight ready 0x00070210 [])).engineNext [] :=
  ⟨by decide, rfl, rfl, .inl rfl⟩

/-- Busy in INIT and in EXEC; CMD, and the first and last word of a data window; a CTRL write with and
without bit 1; a STATUS write; the engine's turn. -/
theorem witness_BusyWritesAreDropped :
    let s := inFlight ready 0x00070210 []
    State.reset.busy = true ∧ s.busy = true ∧ isData .coef = true ∧ isData .sub = true ∧
    (facing s (.hostWrite 0x00C 1)).events = .hostWrite 0x00C 1 :: [] ∧
    (facing s (.hostWrite (windowOffset .coef 0) 1)).events = .hostWrite (windowOffset .coef 0) 1 :: [] ∧
    (facing s (.hostWrite (windowOffset .sub 63) 1)).events = .hostWrite (windowOffset .sub 63) 1 :: [] ∧
    s.engineNext [] ∧ (∃ t, step s = .next t) ∧
    (facing s (.hostWrite 0x004 2)).events = .hostWrite 0x004 2 :: [] ∧
    (facing s (.hostWrite 0x008 0x14)).events = .hostWrite 0x008 0x14 :: [] :=
  ⟨rfl, rfl, rfl, rfl, rfl, rfl, rfl, .inl rfl, ⟨_, rfl⟩, rfl, rfl⟩

theorem witness_WindowWriteStoresFourEntries :
    let s := facing ready (.hostWrite (windowOffset .sub 63) 0xDDCCBBAA)
    let d := facing (inFlight ready 0x00070210 []) (.hostWrite (windowOffset .sub 63) 0xDDCCBBAA)
    s.memoriesWf = true ∧ d.memoriesWf = true ∧ isData .sub = true ∧
    s.events = .hostWrite (windowOffset .sub 63) 0xDDCCBBAA :: [] ∧ s.phase = .idle ∧
    d.events = .hostWrite (windowOffset .sub 63) 0xDDCCBBAA :: [] ∧ d.phase ≠ .idle :=
  ⟨ready_wf, ready_wf, rfl, rfl, rfl, rfl, nofun⟩

theorem witness_WindowReadPacksFourEntries :
    (facing ready (.hostRead (windowOffset .log 63) 0)).events =
      .hostRead (windowOffset .log 63) 0 :: [] ∧
    (facing ready (.hostRead (windowOffset .log 63) 0)).phase = .idle ∧
    (facing State.reset (.hostRead (windowOffset .coef 0) 7)).phase ≠ .idle ∧
    windowOffset .coef 0 = 0x100 ∧ windowOffset .log 63 = 0x6FC := ⟨rfl, rfl, nofun, rfl, rfl⟩

theorem witness_RegisterReadsShowTheState :
    (facing ready (.hostRead 0x000 0)).events = .hostRead 0x000 0 :: [] ∧
    (facing ready (.hostRead 0x010 0)).events = .hostRead 0x010 0 :: [] := ⟨rfl, rfl⟩

/-- The ends of each range of bad and of read-only offsets, and their neighbours outside. -/
theorem witness_ErrorResponsesChangeNothing :
    (badOffset 0x002 ∧ badOffset 0x101 ∧ badOffset 0x014 ∧ badOffset 0x0FC ∧ badOffset 0x700 ∧
      badOffset 0xFFC ∧ ¬ badOffset 0x010 ∧ ¬ badOffset 0x100 ∧ ¬ badOffset 0x6FC) ∧
    (readOnlyOffset 0x000 ∧ readOnlyOffset 0x010 ∧ readOnlyOffset 0x500 ∧ readOnlyOffset 0x6FC ∧
      ¬ readOnlyOffset 0x4FC ∧ ¬ readOnlyOffset 0x700 ∧ ¬ readOnlyOffset 0x004) ∧
    (facing ready (.hostWrite 0x014 1)).events = .hostWrite 0x014 1 :: [] ∧
    (facing ready (.hostRead 0x014 1)).events = .hostRead 0x014 1 :: [] := by
  refine ⟨⟨?_, ?_, ?_, ?_, ?_, ?_, ?_, ?_, ?_⟩, ⟨?_, ?_, ?_, ?_, ?_, ?_, ?_⟩, ?_, ?_⟩ <;> first
    | rfl
    | (unfold badOffset; decide)
    | (unfold readOnlyOffset; decide)

theorem witness_BusyReadsHideTheMemories :
    (facing (inFlight ready 0x00070210 []) (.hostRead 0x100 7)).busy = true ∧
    (facing (inFlight ready 0x00070210 []) (.hostRead 0x100 7)).events = .hostRead 0x100 7 :: [] :=
  ⟨rfl, rfl⟩

theorem witness_IrqFollowsEnableAndDone :
    let s := { inFlight ready 0 [] with ie := true }
    s.phase = .exec 0 ∧ s.engineNext [] ∧ (∃ t, step s = .next t ∧ t.phase = .idle) ∧
    (1 : Word).getLsbD 1 = false ∧ (4 : Word).getLsbD 2 = true ∧
    (facing ready (.hostWrite 0x004 1)).events = .hostWrite 0x004 1 :: [] ∧
    (facing ready (.hostWrite 0x008 4)).events = .hostWrite 0x008 4 :: [] ∧
    (facing ready (.hostWrite 0x00C 4)).events = .hostWrite 0x00C 4 :: [] ∧ ready.phase = .idle ∧
    isReset .hardwareReset = true ∧ ∃ t, step (facing ready .hardwareReset) = .next t :=
  ⟨rfl, .inl rfl, ⟨_, rfl, rfl⟩, by decide, by decide, rfl, rfl, rfl, rfl, rfl, ⟨_, rfl⟩⟩

/-- A step that changes tables, one that changes a memory at a completion, one by a host write. -/
theorem witness_MemoriesChangeOnlyAsListed :
    (∃ t, step State.reset = .next t ∧ t.expT ≠ State.reset.expT) ∧
    (∃ t, step (inFlight ready 0x00AB0110 []) = .next t ∧ t.coef ≠ ready.coef) ∧
    ∃ t, step (facing ready (wr 0x100 1)) = .next t ∧ t.coef ≠ ready.coef :=
  ⟨⟨_, rfl, by decide⟩, ⟨_, rfl, by decide⟩, ⟨_, rfl, by decide⟩⟩

theorem witness_ResultChangesOnlyAtSuccess :
    (∃ t, step (inFlight ready 0x00CA5301 []) = .next t ∧ t.ry ≠ ready.ry) ∧
    ∃ t, step (facing { ready with ry := 1 } .hardwareReset) = .next t ∧ t.ry ≠ 1 :=
  ⟨⟨_, rfl, by decide⟩, ⟨_, rfl, by decide⟩⟩

theorem witness_EveryStepKeepsTheInvariant :
    (inFlight ready 0x00000504 []).Inv ∧ ∃ t, step (inFlight ready 0x00000504 []) = .next t :=
  ⟨inFlight_div_inv, _, rfl⟩

theorem witness_IdleTurnChangesNothing :
    ready.phase = .idle ∧ ready.engineNext [] ∧ (facing ready .engine).engineNext [] :=
  ⟨rfl, .inr ⟨rfl, rfl⟩, .inl rfl⟩

/-- Each flag changed in each direction: IE; DONE set by a completion, cleared by an acknowledgement, by an
acceptance and by a reset; OVR set and cleared; ERRCODE. -/
theorem witness_FlagsChangeOnlyAsListed :
    let s := { ready with done := true, ovr := true }
    let b := inFlight ready 0x00070210 []
    (∃ t, step (facing ready (wr 0x004 1)) = .next t ∧ t.ie ≠ ready.ie) ∧
    (ready.done = false ∧ ∃ t, step (inFlight ready 0 []) = .next t ∧ t.done = true) ∧
    (s.done = true ∧ ∃ t, step (facing s ack) = .next t ∧ t.done = false ∧ t.ovr = false) ∧
    (∃ t, step (facing s (wr 0x00C 0)) = .next t ∧ t.done = false) ∧
    (∃ t, step (facing s .hardwareReset) = .next t ∧ t.done = false ∧ t.ovr = false) ∧
    (b.ovr = false ∧ ∃ t, step (facing b (wr 0x00C 0)) = .next t ∧ t.ovr = true) ∧
    (∃ t, step (facing b (wr (windowOffset .sub 63) 0)) = .next t ∧ t.ovr = true) ∧
    ∃ t, step (inFlight ready 0x00000504 []) = .next t ∧ t.errcode ≠ ready.errcode :=
  ⟨⟨_, rfl, by decide⟩, ⟨rfl, _, rfl, rfl⟩, ⟨rfl, _, rfl, by decide, by decide⟩, ⟨_, rfl, rfl⟩,
    ⟨_, rfl, rfl, rfl⟩, ⟨rfl, _, rfl, rfl⟩, ⟨_, rfl, rfl⟩, _, rfl, by decide⟩

/-- The state a completion leads to. -/
def completed (i : Instr) (s : State) : State :=
  match exec i s with
  | .next t => t
  | .fault _ => s
  | .refused _ => s

/-- Program P3's players: GENSUB 2, 3 over XS = 01 02 03 with the masks 05, C3 and 77. -/
def player (p : Nat) : State :=
  { ready with xs := mem [1, 2, 3], taken := [([0x05, 0xC3, 0x77] : List Byte).getD p 0] }

/-- Program P3's received subshares: byte i of every player's SUB. -/
def received (i : Nat) : State :=
  { ready with
    sub := mem ((List.range 3).map fun p => item (completed (.gensub 2 3) (player p)).sub i) }

/-- Program P3's old shares, which COMBINE renews. -/
def renewed (i : Nat) : State :=
  completed (.combine (BitVec.ofNat 8 (i + 1)) (([0x3B, 0x08, 0x19] : List Byte).getD i 0) 3) (received i)

theorem player_wf (p : Nat) : (player p).memoriesWf = true := by
  have h : (mem [1, 2, 3]).wf = true := by decide
  have r := ready_wf
  simp only [State.memoriesWf, player, Bool.and_eq_true] at r ⊢
  exact ⟨⟨⟨⟨⟨r.1.1.1.1.1, h⟩, r.1.1.1.2⟩, r.1.1.2⟩, r.1.2⟩, r.2⟩

/-- Program P3 whole: the renewed shares are 8A, 77 and D7, of which the third and the first are taken. -/
theorem witness_RenewalEpochPreservesTheSecret :
    let k : Byte := 2
    let n : Byte := 3
    let x : Nat → Byte := fun i => BitVec.ofNat 8 (i + 1)
    let y : Nat → Byte := fun i => [0x3B, 0x08, 0x19].getD i 0
    let c : Nat → Byte := fun j => [0x2A, 0x11].getD j 0
    let f : Nat → Nat := fun i => 2 - 2 * i
    let u := { ready with xs := mem [3, 1], ys := mem [0xD7, 0x8A] }
    k ≠ 0 ∧ k.toNat ≤ n.toNat ∧ u.tablesBuilt ∧
    (∀ p, p < n.toNat → (player p).memoriesWf = true ∧ (player p).tablesBuilt ∧
      k.toNat - 1 ≤ (useful (player p).taken).length ∧
      (∀ i, i < n.toNat → item (player p).xs i = x i) ∧
      exec (.gensub k n) (player p) = .next (completed (.gensub k n) (player p))) ∧
    (∀ i, i < n.toNat → y i = horner c k.toNat (x i)) ∧
    (∀ i, i < n.toNat →
      (∀ p, p < n.toNat → item (received i).sub p = item (completed (.gensub k n) (player p)).sub i) ∧
      exec (.combine (x i) (y i) n) (received i) = .next (renewed i)) ∧
    (∀ i, i < k.toNat → f i < n.toNat ∧ item u.xs i = (renewed (f i)).rx ∧
      item u.ys i = (renewed (f i)).ry) ∧
    distinct u.xs k.toNat := by
  have hd : ∀ p, p < 3 → 2 - 1 ≤ (useful (player p).taken).length ∧
      ∀ i, i < 3 → item (player p).xs i = BitVec.ofNat 8 (i + 1) := by decide
  have hg : ∀ p, p < 3 → ∃ cs, drawCoeffs (count 2 - 1) (player p).taken = some cs := by
    intro p hp
    exact ⟨_, by rw [drawCoeffs_eq]; exact if_pos (hd p hp).1⟩
  refine ⟨by decide, by decide, ready_built, fun p hp => ⟨player_wf p, ready_built, (hd p hp).1,
    (hd p hp).2, ?_⟩, by decide +kernel, fun i hi => ⟨?_, rfl⟩, by decide +kernel,
    distinct_two _ (by decide)⟩
  · obtain ⟨cs, hcs⟩ := hg p hp
    have hc : checkPlayers 2 3 = none := by decide
    simp only [completed, exec, execGensub, hc, hcs]
  · revert i; decide +kernel

end Sys2Proof.Tests
end

section
/-! Steps by the kind of move, and the irq output after each event that moves it (10_state.md R36). -/

namespace Sys2Proof.Machine

variable {s t : State} {rest : List Event}

/-! ### One step, by what moves -/

/-- A pending host write is the next step (00_scope.md R6, R37). -/
theorem step_of_hostWrite {off : Offset} {v : Word} (h : s.events = .hostWrite off v :: rest) :
    step s = .next ({ s with events := rest }.hostWrite off v) := by
  simp only [step, State.nextMove, h, State.eventMove]

/-- A pending hardware reset is the next step (70_reset_and_hazards.md R112). -/
theorem step_of_hardwareReset (h : s.events = .hardwareReset :: rest) :
    step s = .next { s with events := rest }.resetStep := by
  simp only [step, State.nextMove, h, State.eventMove]

/-- The engine's turn with an illegal word in flight fails it (30_encoding.md R58). -/
theorem step_of_decode_error {w : Word} {e : DecodeError} (hp : s.phase = .exec w)
    (hn : s.engineNext rest) (hd : decode w = .error e) :
    step s = .next ({ s with events := rest }.failWith .illegalCommand) := by
  simp only [step, s.nextMove_of_engineNext rest hn, State.engineMove, hp, hd]

/-- The engine's turn with a legal word in flight is that command's completion (10_state.md R34). -/
theorem step_of_decode_ok {w : Word} {i : Instr} (hp : s.phase = .exec w)
    (hn : s.engineNext rest) (hd : decode w = .ok i) :
    step s = exec i { s with events := rest } := by
  simp only [step, s.nextMove_of_engineNext rest hn, State.engineMove, hp, hd]

/-! ### The irq output after each move -/

/-- A completion or failure raises DONE and keeps IE; only an entropy stall does not, and it stays in
its phase (R34, R119). -/
theorem exec_ie_done {i : Instr} (he : exec i s = .next t) (hphase : t.phase ≠ s.phase) :
    t.ie = s.ie ∧ t.done = true := by
  rcases exec_cases i s with ⟨e, h⟩ | h | ⟨x, y, c, xs, ys, b, h, -⟩ <;>
    obtain rfl := Host.Outcome.next.inj (he.symm.trans h)
  · exact ⟨rfl, rfl⟩
  · exact absurd rfl hphase
  · exact ⟨rfl, rfl⟩

/-- A command that leaves its phase keeps IE and raises DONE, illegal words included (R31, R34). -/
theorem step_completion_ie_done {w : Word} (hp : s.phase = .exec w) (hn : s.engineNext rest)
    (hs : step s = .next t) (ht : t.phase = .idle) : t.ie = s.ie ∧ t.done = true := by
  cases hd : decode w with
  | error e =>
    obtain rfl := Host.Outcome.next.inj (hs.symm.trans (step_of_decode_error hp hn hd))
    exact ⟨rfl, rfl⟩
  | ok i =>
    have he := (step_of_decode_ok hp hn hd).symm.trans hs
    exact exec_ie_done (s := { s with events := rest }) he (by simp [ht, hp])

@[simp] theorem State.irq_resetStep : s.resetStep.irq = false := rfl

@[simp] theorem State.irq_accept (w : Word) : (s.accept w).irq = false := by simp [State.irq]

/-- The response held does not drive irq: after a host write it is what the write's effect leaves. -/
@[simp] theorem State.irq_hostWrite (off : Offset) (v : Word) :
    (s.hostWrite off v).irq = (s.writeLoc (portLoc off) v).irq := rfl

/-- A CTRL write that is no soft reset makes irq the written enable while DONE holds (R18, R36). -/
theorem State.irq_writeCtrl_of_enable {v : Word} (h : v.getLsbD 1 = false) :
    (s.writeCtrl v).irq = (v.getLsbD 0 && s.done) := by
  obtain ⟨h', -⟩ | ⟨-, e⟩ := s.writeCtrl_cases v
  · rw [h] at h'; contradiction
  · simp only [e, State.irq]

/-- A soft reset lowers irq (R18, 70_reset_and_hazards.md R115). -/
theorem State.irq_writeCtrl_of_softReset {v : Word} (h : v.getLsbD 1 = true) :
    (s.writeCtrl v).irq = false := by
  obtain ⟨-, e⟩ | ⟨h', -⟩ := s.writeCtrl_cases v
  · rw [e, State.irq_resetStep]
  · rw [h] at h'; contradiction

/-- Acknowledging DONE lowers irq (R19, 60_exceptions.md R104). -/
theorem State.irq_writeStatus_of_ack {v : Word} (h : v.getLsbD 2 = true) :
    (s.writeStatus v).irq = false := by
  simp [State.irq, h]

/-- In IDLE a CMD write is an acceptance, which lowers irq (R33). -/
theorem State.irq_writeLoc_cmd_of_idle (h : s.phase = .idle) (w : Word) :
    (s.writeLoc .cmd w).irq = false := by
  have hbusy : s.busy = false := (State.busy_eq_false_iff s).2 h
  simp [State.writeLoc, hbusy]

/-! ### The registers' places in the address map (20_memory.md R38) -/

theorem portLoc_ctrl : portLoc 0x004 = .ctrl := by decide

theorem portLoc_status : portLoc 0x008 = .status := by decide

theorem portLoc_cmd : portLoc 0x00C = .cmd := by decide

/-! ### The events that move irq (R36) -/

/-- The events that reset the block (R112, R115). -/
theorem isReset_cases {e : Event} (h : Claims.isReset e = true) :
    e = .hardwareReset ∨ ∃ v, e = .hostWrite 0x004 v ∧ v.getLsbD 1 = true := by
  cases e with
  | hardwareReset => exact .inl rfl
  | hostWrite off v =>
    obtain ⟨hoff, hv⟩ : off = 0x004 ∧ v.getLsbD 1 = true := by simpa [Claims.isReset] using h
    exact .inr ⟨v, by rw [hoff], hv⟩
  | hostRead _ _ | entropy _ | engine => simp [Claims.isReset] at h

/-- After a host write irq is what the write's effect on the block leaves. -/
theorem irq_of_hostWrite {off : Offset} {v : Word} (hev : s.events = .hostWrite off v :: rest)
    (hs : step s = .next t) :
    t.irq = ({ s with events := rest }.writeLoc (portLoc off) v).irq := by
  obtain rfl := Host.Outcome.next.inj ((step_of_hostWrite hev).symm.trans hs)
  exact State.irq_hostWrite off v

/-- A reset, hardware or soft, lowers irq. -/
theorem irq_of_reset {e : Event} (hev : s.events = e :: rest) (hs : step s = .next t)
    (hr : Claims.isReset e = true) : t.irq = false := by
  rcases isReset_cases hr with rfl | ⟨v, rfl, hv⟩
  · obtain rfl := Host.Outcome.next.inj ((step_of_hardwareReset hev).symm.trans hs)
    exact State.irq_resetStep
  · rw [irq_of_hostWrite hev hs, portLoc_ctrl]
    exact State.irq_writeCtrl_of_softReset hv

/-- Settles O47: a completion sets DONE and keeps IE, and each host write or reset named leaves IE and
DONE as its own rule says. -/
theorem irqFollowsEnableAndDone : Obligations.IrqFollowsEnableAndDone := by
  unfold Obligations.IrqFollowsEnableAndDone
  refine ⟨fun _ => ⟨rfl, fun _ => rfl⟩, fun s t w rest hp hn hs ht => ?_,
    fun s t e rest hev hs => ⟨?_, ?_, ?_, irq_of_reset hev hs⟩⟩
  · obtain ⟨hie, hdone⟩ := step_completion_ie_done hp hn hs ht
    simp [State.irq, hie, hdone]
  · rintro v rfl hv
    rw [irq_of_hostWrite hev hs, portLoc_ctrl]
    exact State.irq_writeCtrl_of_enable hv
  · rintro v rfl hv
    rw [irq_of_hostWrite hev hs, portLoc_status]
    exact State.irq_writeStatus_of_ack hv
  · rintro w rfl hp
    rw [irq_of_hostWrite hev hs, portLoc_cmd]
    exact State.irq_writeLoc_cmd_of_idle (s := { s with events := rest }) hp w

end Sys2Proof.Machine
end

section
/-! The host port: what each offset names, window reads and writes entry by entry, and error responses
(20_memory.md R38 to R43). -/

namespace Sys2Proof.Machine

open Sys2Proof.Claims

/-! ### One read as a step -/

/-- A pending host read is the next step (00_scope.md R6, R37). -/
theorem step_of_hostRead {s : State} {rest : List Event} {off : Offset} {draw : Word}
    (h : s.events = .hostRead off draw :: rest) :
    step s = .next ({ s with events := rest }.hostRead off draw) := by
  simp only [step, State.nextMove, h, State.eventMove]

/-! ### The address map by offset -/

/-- The offsets that R38 and R40 give to a location, as numbers. -/
def Loc.covers : Loc → Nat → Prop
  | .id, n => n = 0x000
  | .ctrl, n => n = 0x004
  | .status, n => n = 0x008
  | .cmd, n => n = 0x00C
  | .result, n => n = 0x010
  | .window m base, n => n % 4 = 0 ∧ n = windowBase m + base.toNat
  | .reserved, n => n % 4 = 0 ∧ ((0x014 ≤ n ∧ n ≤ 0x0FF) ∨ 0x700 ≤ n)
  | .misaligned, n => n % 4 ≠ 0

theorem registerLoc_covers {n : Nat} (hn : n < 0x100) (h4 : n % 4 = 0) :
    (registerLoc n).covers n := by
  unfold registerLoc
  split
  case h_6 => simp only [imp_false, Loc.covers] at *; omega
  all_goals rfl

/-- The map names each offset as R38 and R40 do. -/
theorem portLoc_covers (off : Offset) : (portLoc off).covers off.toNat := by
  have hpage : (off.extractLsb' 8 4).toNat = off.toNat / 256 := by
    have := off.isLt
    rw [BitVec.extractLsb'_toNat, Nat.shiftRight_eq_div_pow]; omega
  have hlow : (off.extractLsb' 0 8).toNat = off.toNat % 256 := by simp
  have halign : (off.extractLsb' 0 2).toNat = off.toNat % 4 := by simp
  by_cases h4 : off.toNat % 4 = 0
  · have : off.extractLsb' 0 2 = 0 := BitVec.eq_of_toNat_eq (by simpa using h4)
    simp only [portLoc, this, bne_self_eq_false, Bool.false_eq_true, if_false, hpage, hlow]
    split
    case h_1 h =>
      have : off.toNat % 256 = off.toNat := by omega
      rw [this]
      exact registerLoc_covers (by omega) h4
    case h_8 => simp only [imp_false, Loc.covers] at *; omega
    all_goals simp only [Loc.covers, windowBase, hlow]; omega
  · have : off.extractLsb' 0 2 ≠ 0 := fun h => h4 (by rw [← halign, h]; rfl)
    rwa [portLoc, if_pos (bne_iff_ne.2 this)]

/-- Every window is a page of its own, pages 1 to 6 (R38). -/
theorem windowBase_page (m : MemId) :
    windowBase m % 0x100 = 0 ∧ 0x100 ≤ windowBase m ∧ windowBase m ≤ 0x600 := by
  cases m <;> decide

theorem windowBase_inj {m m' : MemId} (h : windowBase m = windowBase m') : m = m' := by
  revert h; cases m <;> cases m' <;> decide

/-- The misaligned and reserved offsets are those of R40 and R38. -/
theorem Loc.badOffset_iff_of_covers {l : Loc} {n : Nat} (h : l.covers n) :
    badOffset n ↔ l = .reserved ∨ l = .misaligned := by
  unfold badOffset
  cases l with
  | window m base =>
    have := base.isLt
    have := windowBase_page m
    simp only [Loc.covers, reduceCtorEq, or_self, iff_false] at h ⊢
    omega
  | _ =>
    simp only [Loc.covers, reduceCtorEq, or_self, or_true, true_or, iff_false, iff_true] at h ⊢
    omega

/-- The read-only windows are the two highest pages, EXP and LOG (R41 item 3). -/
theorem MemId.readOnly_iff (m : MemId) : m.readOnly = true ↔ 0x500 ≤ windowBase m := by
  cases m <;> decide

/-- The locations whose writes are errors are those of R41, by offset. -/
theorem Loc.writeError_iff_of_covers {l : Loc} {n : Nat} (h : l.covers n) :
    l.writeError = true ↔ badOffset n ∨ readOnlyOffset n := by
  rw [Loc.badOffset_iff_of_covers h]
  unfold readOnlyOffset
  cases l with
  | window m base =>
    have := base.isLt
    have := windowBase_page m
    simp only [Loc.covers, Loc.writeError, MemId.readOnly_iff, reduceCtorEq, false_or] at h ⊢
    omega
  | _ =>
    simp only [Loc.covers, Loc.writeError, reduceCtorEq, or_self, or_true, true_or, false_or,
      true_iff, false_iff] at h ⊢ <;> omega

/-- A location that covers entry `i` of a window is that window's word (R38, R39). -/
theorem Loc.eq_window_of_covers {l : Loc} {m : MemId} {i : Nat} (hi : i < 256) (h4 : i % 4 = 0)
    (h : l.covers (windowBase m + i)) : l = .window m (BitVec.ofNat 8 i) := by
  have := windowBase_page m
  cases l with
  | window m' base =>
    obtain ⟨-, hbase⟩ := h
    have := base.isLt
    have := windowBase_page m'
    obtain rfl : m = m' := windowBase_inj (by omega)
    obtain rfl : i = base.toNat := by omega
    rw [BitVec.ofNat_toNat, BitVec.setWidth_eq]
  | _ => simp only [Loc.covers] at h; omega

/-- Word `x` of a window starts at its entry `4 * x` (R39). -/
theorem portLoc_windowOffset (m : MemId) {x : Nat} (hx : x < 64) :
    portLoc (windowOffset m x) = .window m (BitVec.ofNat 8 (4 * x)) := by
  have := windowBase_page m
  have hoff : (windowOffset m x).toNat = windowBase m + 4 * x := by
    rw [windowOffset, BitVec.toNat_ofNat]; omega
  exact Loc.eq_window_of_covers (by omega) (by omega) (hoff ▸ portLoc_covers (windowOffset m x))

/-! ### Window words, entry by entry (R39) -/

/-- The four bytes of a word, least significant first. -/
def wordBytes (v : Word) : List Byte := (List.range 4).map fun b => v.extractLsb' (8 * b) 8

@[simp] theorem length_wordBytes (v : Word) : (wordBytes v).length = 4 := rfl

theorem getD_wordBytes (v : Word) {b : Nat} (hb : b < 4) :
    (wordBytes v).getD b 0 = v.extractLsb' (8 * b) 8 := by
  simp [wordBytes, hb]

/-- A window write is the run of its four bytes from the lowest entry (R43). -/
theorem Memory.writeWord_eq_writeSeq (m : Memory) (base : Byte) (v : Word) :
    m.writeWord base v = m.writeSeq base.toNat (wordBytes v) := by
  simp [Memory.writeWord, wordBytes, List.range, List.range.loop, Memory.writeSeq, BitVec.ofNat_add,
    BitVec.add_assoc]

theorem Memory.read_writeWord (m : Memory) (hm : m.wf = true) {x : Nat} (hx : x < 64) (v : Word)
    (j : Byte) :
    (m.writeWord (BitVec.ofNat 8 (4 * x)) v).read j =
      if j.toNat / 4 = x then v.extractLsb' (8 * (j.toNat % 4)) 8 else m.read j := by
  have hbase : (BitVec.ofNat 8 (4 * x)).toNat = 4 * x := by
    rw [BitVec.toNat_ofNat]; omega
  rw [Memory.writeWord_eq_writeSeq, hbase,
    Memory.read_writeSeq m (4 * x) (wordBytes v) j hm (by rw [length_wordBytes]; omega),
    length_wordBytes]
  by_cases hj : j.toNat / 4 = x
  · have hidx : j.toNat - 4 * x = j.toNat % 4 := by omega
    rw [if_pos (by omega), if_pos hj, hidx, getD_wordBytes v (by omega)]
  · rw [if_neg (by omega), if_neg hj]

theorem Memory.extract_readWord (m : Memory) (x : Nat) {b : Nat} (hb : b < 4) :
    (m.readWord (BitVec.ofNat 8 (4 * x))).extractLsb' (8 * b) 8 = item m (4 * x + b) := by
  unfold item
  rw [BitVec.ofNat_add]
  interval_cases b
  · rw [BitVec.add_zero]; exact fieldOP_packWord _ _ _ _
  · exact fieldA_packWord _ _ _ _
  · exact fieldB_packWord _ _ _ _
  · exact fieldC_packWord _ _ _ _

/-! ### What a transaction does, by its location -/

theorem State.mem_wf {s : State} (h : s.memoriesWf = true) (m : MemId) : (s.mem m).wf = true := by
  simp only [State.memoriesWf, Bool.and_eq_true] at h
  obtain ⟨⟨⟨⟨⟨hcoef, hxs⟩, hys⟩, hsub⟩, hexp⟩, hlog⟩ := h
  cases m <;> assumption

/-- The pending events are no part of a memory. -/
theorem State.mem_withEvents (s : State) (rest : List Event) (m : MemId) :
    { s with events := rest }.mem m = s.mem m := by
  cases m <;> rfl

theorem MemId.readOnly_eq_false_of_isData {m : MemId} (h : isData m = true) :
    m.readOnly = false := by
  cases m with
  | coef | xs | ys | sub => rfl
  | exp | log => contradiction

theorem State.busy_of_not_idle {s : State} (h : s.phase ≠ .idle) : s.busy = true :=
  Bool.eq_true_of_not_eq_false fun hb => h (s.busy_eq_false_iff.1 hb)

/-- In IDLE a write to a window that is not read-only replaces the word in that memory (R43). -/
theorem State.hostWrite_window_of_idle {s : State} {m : MemId} {x : Nat} (hx : x < 64)
    (hm : m.readOnly = false) (hp : s.phase = .idle) (v : Word) :
    s.hostWrite (windowOffset m x) v = { s with resp := some (.write false) }.setMem m
      ((s.mem m).writeWord (BitVec.ofNat 8 (4 * x)) v) := by
  have heffect : s.writeLoc (.window m (BitVec.ofNat 8 (4 * x))) v =
      s.setMem m ((s.mem m).writeWord (BitVec.ofNat 8 (4 * x)) v) := by
    simp [State.writeLoc, hm, s.busy_eq_false_iff.2 hp]
  rw [State.hostWrite, portLoc_windowOffset m hx, heffect, Loc.writeError, hm]
  cases m <;> rfl

/-- In any other phase it is dropped (70_reset_and_hazards.md R117). -/
theorem State.hostWrite_window_of_not_idle {s : State} {m : MemId} {x : Nat} (hx : x < 64)
    (hm : m.readOnly = false) (hp : s.phase ≠ .idle) (v : Word) :
    s.hostWrite (windowOffset m x) v = { s with ovr := true, resp := some (.write false) } := by
  have heffect : s.writeLoc (.window m (BitVec.ofNat 8 (4 * x))) v = s.dropWrite := by
    simp [State.writeLoc, hm, State.busy_of_not_idle hp]
  rw [State.hostWrite, portLoc_windowOffset m hx, heffect, Loc.writeError, hm]
  rfl

/-- A write with an error response has no effect on the block (R41). -/
theorem State.writeLoc_of_writeError {l : Loc} (h : l.writeError = true) (s : State) (v : Word) :
    s.writeLoc l v = s := by
  cases l with
  | id | result | reserved | misaligned => rfl
  | window m base => exact if_pos h
  | ctrl | status | cmd => contradiction

/-- A read of a misaligned or reserved offset is an error with data 0 (R40, R41). -/
theorem State.readResponse_of_badOffset {off : Offset} (h : badOffset off.toNat) (s : State)
    (draw : Word) : s.readResponse off draw = .read true 0 := by
  unfold State.readResponse
  rcases (Loc.badOffset_iff_of_covers (portLoc_covers off)).1 h with hl | hl <;> rw [hl]

/-- A read of any other offset is OK (R41). -/
theorem State.readResponse_of_not_badOffset {off : Offset} (h : ¬ badOffset off.toNat) (s : State)
    (draw : Word) : ∃ data, s.readResponse off draw = .read false data := by
  rw [Loc.badOffset_iff_of_covers (portLoc_covers off)] at h
  unfold State.readResponse
  cases hl : portLoc off with
  | id | ctrl | status | cmd | result | window m base => exact ⟨_, rfl⟩
  | reserved | misaligned => simp [hl] at h

/-! ### The obligations -/

/-- Settles O42: a window word is a run of four entries, and the run's read law says every entry. -/
theorem windowWriteStoresFourEntries : Obligations.WindowWriteStoresFourEntries := by
  unfold Obligations.WindowWriteStoresFourEntries
  intro s v rest m x hwf hdata hx hev
  have hm := MemId.readOnly_eq_false_of_isData hdata
  rw [step_of_hostWrite hev]
  refine ⟨fun hp => ⟨(s.mem m).writeWord (BitVec.ofNat 8 (4 * x)) v, ?_,
    Memory.read_writeWord _ (State.mem_wf hwf m) hx v⟩, fun hp => ?_⟩
  · rw [State.hostWrite_window_of_idle (s := { s with events := rest }) hx hm hp,
      State.mem_withEvents]
  · rw [State.hostWrite_window_of_not_idle (s := { s with events := rest }) hx hm hp]

/-- Settles O43: a window read answers the packed word in IDLE and the draw otherwise. -/
theorem windowReadPacksFourEntries : Obligations.WindowReadPacksFourEntries := by
  unfold Obligations.WindowReadPacksFourEntries
  intro s draw rest m x hx hev
  refine ⟨if s.busy then draw else (s.mem m).readWord (BitVec.ofNat 8 (4 * x)), ?_,
    fun hp => ?_, fun hp b hb => ?_⟩
  · rw [step_of_hostRead hev, State.hostRead, State.readResponse, portLoc_windowOffset m hx]
    cases m <;> rfl
  · rw [if_pos (State.busy_of_not_idle hp)]
  · rw [s.busy_eq_false_iff.2 hp, if_neg Bool.false_ne_true]
    exact Memory.extract_readWord (s.mem m) x hb

/-- Settles O45: the address map decides the response, and an error response keeps the block. -/
theorem errorResponsesChangeNothing : Obligations.ErrorResponsesChangeNothing := by
  unfold Obligations.ErrorResponsesChangeNothing
  intro s off v rest
  have hwrite := Loc.writeError_iff_of_covers (portLoc_covers off)
  refine ⟨fun hev => ?_, fun hev => ?_⟩
  · rw [step_of_hostWrite hev, State.hostWrite]
    refine ⟨fun h => ?_, fun h => ⟨_, rfl, ?_⟩⟩
    · rw [State.writeLoc_of_writeError (hwrite.2 h), hwrite.2 h]
    · rw [Bool.eq_false_of_not_eq_true (mt hwrite.1 h)]
  · rw [step_of_hostRead hev, State.hostRead]
    refine ⟨fun h => by rw [State.readResponse_of_badOffset h], fun h => ?_⟩
    obtain ⟨data, hdata⟩ := State.readResponse_of_not_badOffset h { s with events := rest } v
    exact ⟨data, by rw [hdata]⟩

end Sys2Proof.Machine
end

section
/-! Illegal words: the decoder rejects exactly the words of 30_encoding.md R58, and what the block does
with one of them from acceptance to completion. -/

namespace Sys2Proof.Machine

open Sys2Proof.Claims

/-! ### What the decoder rejects -/

/-- A word of OP 0 is the zero word exactly when its operand fields are zero (30_encoding.md R54). -/
theorem eq_zero_iff_of_fieldOP_eq_zero {w : Word} (hop : fieldOP w = 0) :
    w = 0 ↔ fieldA w = 0 ∧ fieldB w = 0 ∧ fieldC w = 0 := by
  refine ⟨by rintro rfl; decide, fun ⟨ha, hb, hc⟩ => ?_⟩
  rw [← packWord_fields w, hop, ha, hb, hc]
  rfl

/-- The words that decode are those R58 does not list: row by row, the reserved fields are the ones
R58 requires to be zero, and an OP value without a row lies in one of its ranges. -/
theorem exists_decode_ok_iff_not_illegal (w : Word) :
    (∃ i, decode w = .ok i) ↔ ¬ illegal w := by
  have hop : opOf w = (fieldOP w).toNat := rfl
  unfold decode
  dsimp only
  split
  case h_1 h =>
    have hop0 : fieldOP w = 0 := BitVec.eq_of_toNat_eq h
    simpa [checkReserved_ok_iff, illegal, hop, hop0, and_assoc] using
      (eq_zero_iff_of_fieldOP_eq_zero hop0).symm
  case h_16 =>
    simp only [imp_false] at *
    simp only [reduceCtorEq, exists_false, false_iff, not_not, illegal, hop]
    omega
  all_goals
    rename_i h
    simp [checkReserved_ok_iff, illegal, hop, h, fieldB, fieldC]

theorem decode_error_of_illegal {w : Word} (h : illegal w) : ∃ e, decode w = .error e := by
  cases hd : decode w with
  | error e => exact ⟨e, rfl⟩
  | ok i => exact absurd h ((exists_decode_ok_iff_not_illegal w).1 ⟨i, hd⟩)

/-! ### An illegal word in flight -/

/-- In IDLE a write of any word to CMD is its acceptance (10_state.md R33). -/
theorem State.writeLoc_cmd_of_idle {s : State} (h : s.phase = .idle) (w : Word) :
    s.writeLoc .cmd w = s.accept w := by
  simp [State.writeLoc, s.busy_eq_false_iff.2 h]

/-- A pending transfer on the entropy port is the next step (00_scope.md R6). -/
theorem step_of_entropy {s : State} {rest : List Event} {b : Byte}
    (h : s.events = .entropy b :: rest) :
    step s = .next ({ s with events := rest }.takeEntropy b) := by
  simp only [step, State.nextMove, h, State.eventMove]

/-- A word that does not decode needs no draw, so the engine takes no byte for it (R35, R58). -/
theorem State.wantsEntropy_of_decode_error {s : State} {w : Word} {e : DecodeError}
    (hp : s.phase = .exec w) (hd : decode w = .error e) : s.wantsEntropy = false := by
  simp [State.wantsEntropy, hp, drawsOfWord, hd, drawCoeffs]

/-- Settles O4: the decoder rejects exactly R58's words, whose turn of the engine is a failure and whose
draws are none. -/
theorem illegalWordsFailAtCompletion : Obligations.IllegalWordsFailAtCompletion := by
  unfold Obligations.IllegalWordsFailAtCompletion
  refine ⟨fun w => (exists_decode_ok_iff_not_illegal w).symm, rfl, fun s w rest hw => ?_⟩
  obtain ⟨e, hd⟩ := decode_error_of_illegal hw
  refine ⟨fun hp hev => ⟨_, step_of_hostWrite hev, ?_⟩, fun hp hn => step_of_decode_error hp hn hd,
    fun b hp hev => ?_⟩
  · rw [State.hostWrite, portLoc_cmd,
      State.writeLoc_cmd_of_idle (s := { s with events := rest }) hp, State.accept_phase]
  · have hwants := State.wantsEntropy_of_decode_error (s := { s with events := rest }) hp hd
    rw [step_of_entropy hev, State.takeEntropy, hwants, if_neg Bool.false_ne_true]

end Sys2Proof.Machine
end

section
/-! The field operations over the built tables compute the products of 40_field.md R65 and their
quotients: doubling a factor doubles the product, and EXP lists the doublings of 1. -/

namespace Sys2Proof.Machine

/-! ### Russian-peasant products (R65) -/

/-- Doubling the first factor doubles what the loop adds up. -/
theorem rpLoop_gfDouble (n : Nat) (p aa bb : Byte) :
    rpLoop n (gfDouble p) (gfDouble aa) bb = gfDouble (rpLoop n p aa bb) := by
  induction n generalizing p aa bb with
  | zero => rfl
  | succ n ih =>
    by_cases hb : bb = 0
    · simp only [rpLoop, hb, if_true]
    · have hp : (if bb.getLsbD 0 then gfDouble p ^^^ gfDouble aa else gfDouble p) =
          gfDouble (if bb.getLsbD 0 then p ^^^ aa else p) := by
        rw [← gfDouble_xor, apply_ite gfDouble]
      simp only [rpLoop, hb, if_false, hp, ih]

theorem rpMul_gfDouble (a b : Byte) : rpMul (gfDouble a) b = gfDouble (rpMul a b) :=
  rpLoop_gfDouble 8 0x00 a b

theorem rpMul_one_left (b : Byte) : rpMul 1 b = b := by
  revert b; decide +kernel

theorem rpMul_zero_left (b : Byte) : rpMul 0 b = 0 := by
  revert b; decide +kernel

theorem rpMul_zero_right (a : Byte) : rpMul a 0 = 0 := rfl

/-! ### The built tables (R67, R68) -/

/-- The tables as init leaves them. -/
def builtTables : Tables := ⟨expTable, logTable⟩

theorem State.tables_eq_of_built {s : State} (h : s.tablesBuilt) : s.tables = builtTables := by
  obtain ⟨hexp, hlog⟩ := h
  rw [State.tables, hexp, hlog, builtTables]

theorem builtTables_expAt_zero : builtTables.expAt 0 = 1 := by decide +kernel

/-- Each EXP entry is twice the one before, and after entry 254 they start again. -/
theorem builtTables_expAt_succ_mod (i : Nat) :
    builtTables.expAt ((i + 1) % 255) = gfDouble (builtTables.expAt (i % 255)) := by
  have hcycle : ∀ j : Fin 255,
      builtTables.expAt ((j + 1) % 255) = gfDouble (builtTables.expAt j) := by decide +kernel
  rw [← hcycle ⟨i % 255, Nat.mod_lt _ (by decide)⟩, Nat.mod_add_mod]

theorem builtTables_logOf_lt (a : Byte) : builtTables.logOf a < 255 := by
  revert a; decide +kernel

theorem builtTables_expAt_logOf {a : Byte} (h : a ≠ 0) :
    builtTables.expAt (builtTables.logOf a) = a := by
  revert a; decide +kernel

/-- Products of EXP entries add their indexes: induction on the first index, a doubling at a time. -/
theorem rpMul_expAt (i j : Nat) :
    rpMul (builtTables.expAt (i % 255)) (builtTables.expAt (j % 255)) =
      builtTables.expAt ((i + j) % 255) := by
  induction i with
  | zero => rw [Nat.zero_mod, builtTables_expAt_zero, rpMul_one_left, Nat.zero_add]
  | succ i ih =>
    rw [builtTables_expAt_succ_mod, rpMul_gfDouble, ih, Nat.add_right_comm,
      builtTables_expAt_succ_mod]

/-- Every nonzero byte is the EXP entry its LOG names, reduced or not. -/
theorem builtTables_expAt_logOf_mod {a : Byte} (h : a ≠ 0) :
    builtTables.expAt (builtTables.logOf a % 255) = a := by
  rw [Nat.mod_eq_of_lt (builtTables_logOf_lt a), builtTables_expAt_logOf h]

/-! ### The field operations over the built tables (R71, R72) -/

/-- The table product is the peasant product (R71). -/
theorem gfMul_builtTables (a b : Byte) : gfMul builtTables a b = rpMul a b := by
  unfold gfMul
  split
  case isTrue h =>
    rcases h with rfl | rfl
    · exact (rpMul_zero_left b).symm
    · exact (rpMul_zero_right a).symm
  case isFalse h =>
    obtain ⟨ha, hb⟩ := not_or.1 h
    rw [← rpMul_expAt, builtTables_expAt_logOf_mod ha, builtTables_expAt_logOf_mod hb]

/-- The table quotient times the divisor is the dividend (R72). -/
theorem exists_gfDiv_builtTables (a : Byte) {b : Byte} (hb : b ≠ 0) :
    ∃ q, gfDiv builtTables a b = .ok q ∧ rpMul b q = a := by
  by_cases ha : a = 0
  · exact ⟨0, by rw [gfDiv, if_neg hb, if_pos ha], by rw [rpMul_zero_right, ha]⟩
  · refine ⟨_, by rw [gfDiv, if_neg hb, if_neg ha], ?_⟩
    have hlog := builtTables_logOf_lt b
    have hindex : (builtTables.logOf b + (255 + builtTables.logOf a - builtTables.logOf b)) % 255 =
        builtTables.logOf a % 255 := by omega
    nth_rw 1 [← builtTables_expAt_logOf_mod hb]
    rw [rpMul_expAt, hindex, builtTables_expAt_logOf_mod ha]

end Sys2Proof.Machine
end

section
/-! The pseudo-instructions of 30_encoding.md R62: their expansions, and what the commands they expand to
complete with. -/

namespace Sys2Proof.Machine

open Sys2Proof.Claims

/-! ### The completions the pseudo-instructions run (R76 to R79) -/

theorem exec_add (a b : Byte) (s : State) :
    exec (.add a b) s = .next (withResult s 0 (a ^^^ b)) := rfl

theorem exec_sub (a b : Byte) (s : State) :
    exec (.sub a b) s = .next (withResult s 0 (a ^^^ b)) := rfl

theorem exec_mul_of_built {s : State} (h : s.tablesBuilt) (a b : Byte) :
    exec (.mul a b) s = .next (withResult s 0 (rpMul a b)) := by
  rw [← gfMul_builtTables, ← State.tables_eq_of_built h]
  rfl

theorem exec_div_of_built {s : State} (h : s.tablesBuilt) (a : Byte) {b : Byte} (hb : b ≠ 0) :
    ∃ q, exec (.div a b) s = .next (withResult s 0 q) ∧ rpMul b q = a := by
  obtain ⟨q, hq, hprod⟩ := exists_gfDiv_builtTables a hb
  refine ⟨q, ?_, hprod⟩
  simp only [exec, execDiv, State.tables_eq_of_built h, hq]
  rfl

theorem exec_div_zero (a : Byte) (s : State) :
    exec (.div a 0) s = .next (finished s .divisionByZero) := rfl

/-! ### The pseudo-instructions (30_encoding.md R62) -/

/-- One operand that is a byte is a well-formed line for a mnemonic of one operand (R61). -/
theorem AsmLine.wf_unary {op : AsmOp} (h : op.arity = 1) (a : Byte) :
    (AsmLine.mk op [a.toNat]).wf = true := by
  simp [AsmLine.wf, AsmLine.countOk, AsmLine.rangeOk, h, a.isLt]

theorem assemble_inv (a : Byte) : assemble ⟨.inv, [a.toNat]⟩ = some (.div 0x01 a) := by
  simp [assemble, AsmLine.wf_unary (op := .inv) rfl]

theorem assemble_sqr (a : Byte) : assemble ⟨.sqr, [a.toNat]⟩ = some (.mul a a) := by
  simp [assemble, AsmLine.wf_unary (op := .sqr) rfl]

theorem assemble_movr (a : Byte) : assemble ⟨.movr, [a.toNat]⟩ = some (.add a 0x00) := by
  simp [assemble, AsmLine.wf_unary (op := .movr) rfl]

theorem assemble_neg (a : Byte) : assemble ⟨.neg, [a.toNat]⟩ = some (.sub 0x00 a) := by
  simp [assemble, AsmLine.wf_unary (op := .neg) rfl]

/-- Settles O6: each expansion, then its command's completion over the built tables. -/
theorem pseudoInstructionsGiveTheirResults : Obligations.PseudoInstructionsGiveTheirResults := by
  unfold Obligations.PseudoInstructionsGiveTheirResults
  intro s a hbuilt
  refine ⟨⟨assemble_inv a, exec_div_of_built hbuilt 0x01, ?_⟩,
    ⟨assemble_sqr a, exec_mul_of_built hbuilt a a⟩, ⟨assemble_movr a, ?_⟩, ⟨assemble_neg a, ?_⟩⟩
  · rintro rfl
    exact exec_div_zero 0x01 s
  · simp [exec_add]
  · simp [exec_sub]

end Sys2Proof.Machine
end

section
/-! The tables after init: EXP and LOG invert each other, and every completion of init leaves the same
two tables (40_field.md R69). -/

namespace Sys2Proof.Machine

/-! ### LOG and EXP are inverse to each other -/

/-- A byte names the entry of its own number. -/
theorem entry_toNat (i : Byte) : entry i.toNat = i := by
  rw [entry, BitVec.ofNat_toNat, BitVec.setWidth_eq]

theorem expTable_read_logTable_read {v : Byte} (h : v ≠ 0) :
    expTable.read (logTable.read v) = v := by
  rw [← entry_toNat (logTable.read v)]
  exact builtTables_expAt_logOf h

/-- LOG inverts EXP at every index but 255, where EXP repeats its entry 0 (R67, R68). -/
theorem builtTables_logOf_expAt {i : Nat} (h : i < 255) :
    builtTables.logOf (builtTables.expAt i) = i := by
  have hrows : ∀ j : Fin 255, builtTables.logOf (builtTables.expAt j) = j := by decide +kernel
  exact hrows ⟨i, h⟩

theorem logTable_read_expTable_read {i : Byte} (h : i.toNat ≤ 254) :
    logTable.read (expTable.read i) = i := by
  have hlog := builtTables_logOf_expAt (Nat.lt_succ_of_le h)
  rw [Tables.expAt, entry_toNat] at hlog
  exact BitVec.eq_of_toNat_eq hlog

/-! ### The init sequencer -/

/-- The engine's turn in INIT is the completion of init (10_state.md R31, 70_reset_and_hazards.md
R113). -/
theorem step_of_init {s : State} {rest : List Event} (hp : s.phase = .init)
    (hn : s.engineNext rest) : step s = .next { s with events := rest }.initComplete := by
  simp only [step, s.nextMove_of_engineNext rest hn, State.engineMove, hp]

/-- Whatever the tables held before, the engine's turn in INIT leaves the built ones. -/
theorem tablesBuilt_of_init {s t : State} {rest : List Event} (hp : s.phase = .init)
    (hn : s.engineNext rest) (hs : step s = .next t) : t.tablesBuilt := by
  obtain rfl := Host.Outcome.next.inj (hs.symm.trans (step_of_init hp hn))
  exact ⟨rfl, rfl⟩

/-- Settles O15: the listed tables are inverse to each other, and both completions of init leave them. -/
theorem tablesInvertEachOther : Obligations.TablesInvertEachOther := by
  unfold Obligations.TablesInvertEachOther
  refine ⟨fun _ => expTable_read_logTable_read, fun _ => logTable_read_expTable_read,
    fun s t s' t' hps hpt hns hnt hs ht => ?_⟩
  obtain ⟨hexp, hlog⟩ := tablesBuilt_of_init hps hns hs
  obtain ⟨hexp', hlog'⟩ := tablesBuilt_of_init hpt hnt ht
  exact ⟨hexp.trans hexp'.symm, hlog.trans hlog'.symm⟩

end Sys2Proof.Machine
end

section
/-! Failing completions: a command that needs draws does not fail, so a failure finds no entropy byte
taken and changes only STATUS and the phase (60_exceptions.md R99). -/

namespace Sys2Proof.Machine

variable {s t : State} {w : Word} {i : Instr} {rest : List Event}

/-! ### Failures and draws -/

/-- Draws are needed only once the operand checks have passed (41_polynomial.md R84). -/
theorem check_eq_none_of_drawsAfter_ne_zero {c : Option ErrCode} {k : Byte}
    (h : drawsAfter c k ≠ 0) : c = none := by
  cases c with
  | none => rfl
  | some e => exact absurd rfl h

/-- A command that needs draws waits for them or succeeds: its operand checks have passed, and nothing
after them fails (R87, R90, 43_renewal.md R93). -/
theorem exec_of_draws_ne_zero (h : draws i ≠ 0) (s : State) :
    exec i s = .next s ∨ ∃ u : State, exec i s = .next u.complete := by
  cases i with
  | genpoly | gensh | gensub =>
    simp only [exec, execGenpoly, execGensh, execGensub, check_eq_none_of_drawsAfter_ne_zero h]
    split
    · exact .inl rfl
    · exact .inr ⟨_, rfl⟩
  | _ => exact absurd rfl h

/-- A completion that leaves an error code where none stood is of a command that needs no draw. -/
theorem draws_eq_zero_of_exec_error (hok : s.errcode = .ok) (he : exec i s = .next t)
    (herr : t.errcode ≠ .ok) : draws i = 0 := by
  by_contra hdraws
  rcases exec_of_draws_ne_zero hdraws s with h | ⟨u, h⟩ <;>
    obtain rfl := Host.Outcome.next.inj (he.symm.trans h)
  · exact herr hok
  · exact herr rfl

/-- Such a completion is fail(E) with the code it leaves (60_exceptions.md R99). -/
theorem eq_failWith_of_exec_error (hok : s.errcode = .ok) (he : exec i s = .next t)
    (herr : t.errcode ≠ .ok) : t = s.failWith t.errcode := by
  rcases exec_cases i s with ⟨e, h⟩ | h | ⟨x, y, c, xs, ys, b, h, -⟩ <;>
    obtain rfl := Host.Outcome.next.inj (he.symm.trans h)
  · rfl
  · exact absurd hok herr
  · exact absurd rfl herr

/-- The engine's turn that leaves an error code is fail(E), of a word that needs no draw; illegal words
included (30_encoding.md R58). -/
theorem step_error (hok : s.errcode = .ok) (hp : s.phase = .exec w) (hn : s.engineNext rest)
    (hs : step s = .next t) (herr : t.errcode ≠ .ok) :
    t = { s with events := rest }.failWith t.errcode ∧ drawsOfWord w = 0 := by
  cases hd : decode w with
  | error e =>
    obtain rfl := Host.Outcome.next.inj (hs.symm.trans (step_of_decode_error hp hn hd))
    exact ⟨rfl, by simp only [drawsOfWord, hd]⟩
  | ok i =>
    have he := (step_of_decode_ok hp hn hd).symm.trans hs
    refine ⟨eq_failWith_of_exec_error (s := { s with events := rest }) hok he herr, ?_⟩
    simpa only [drawsOfWord, hd] using
      draws_eq_zero_of_exec_error (s := { s with events := rest }) hok he herr

/-! ### The obligation -/

/-- For a word that needs no draw no byte was ever taken (10_state.md R35). -/
theorem State.taken_eq_nil_of_takenOk (h : s.takenOk = true) (hp : s.phase = .exec w)
    (hdraws : drawsOfWord w = 0) : s.taken = [] := by
  simpa [State.takenOk, hp, hdraws, drawCoeffs] using h

/-- Settles O19: a failure is fail(E) of a word that needs no draw, so by the invariant the entropy
bytes it would discard are none. -/
theorem failureIsAllOrNothing : Obligations.FailureIsAllOrNothing := by
  unfold Obligations.FailureIsAllOrNothing
  rintro w s t rest ⟨-, -, houtcome, -, htakenOk⟩ hp hn hs herr
  obtain ⟨-, hok⟩ := houtcome (s.busy_of_exec w hp)
  obtain ⟨hfail, hdraws⟩ := step_error hok hp hn hs herr
  have htaken := State.taken_eq_nil_of_takenOk htakenOk hp hdraws
  refine ⟨?_, htaken⟩
  rw [htaken]
  exact hfail

end Sys2Proof.Machine
end

section
/-! Writes by phase: while BUSY a CMD or data write is dropped and the engine's next turn does not see
it; CTRL and STATUS writes act in every phase (70_reset_and_hazards.md R117). -/

namespace Sys2Proof.Machine

open Sys2Proof.Claims

variable {s t : State} {rest : List Event}

/-! ### What each write does, as a step -/

/-- While BUSY a CMD write is dropped (R117). -/
theorem State.hostWrite_cmd_of_busy (h : s.busy = true) (v : Word) :
    s.hostWrite 0x00C v = { s with ovr := true, resp := some (.write false) } := by
  rw [State.hostWrite, portLoc_cmd, State.writeLoc, if_pos h]
  rfl

/-- A pending CTRL write is the next step, a soft reset where bit 1 is set (10_state.md R18). -/
theorem step_of_ctrl_write {v : Word} (h : s.events = .hostWrite 0x004 v :: rest) :
    step s = .next (if v.getLsbD 1 then
      afterReset { s with events := rest, resp := some (.write false) }
      else { s with events := rest, ie := v.getLsbD 0, resp := some (.write false) }) := by
  rw [step_of_hostWrite h, State.hostWrite, portLoc_ctrl, State.writeLoc]
  obtain ⟨hv, he⟩ | ⟨hv, he⟩ := { s with events := rest }.writeCtrl_cases v <;> rw [he, hv] <;> rfl

/-- A pending STATUS write is the next step, the acknowledgement of DONE and OVR (R19). -/
theorem step_of_status_write {v : Word} (h : s.events = .hostWrite 0x008 v :: rest) :
    step s = .next { s with events := rest, done := s.done && !v.getLsbD 2,
                            ovr := s.ovr && !v.getLsbD 4, resp := some (.write false) } := by
  rw [step_of_hostWrite h, State.hostWrite, portLoc_status]
  rfl

/-! ### The engine does not see OVR or the response held -/

/-- `s` with another OVR and another response held, the fields that a dropped write sets (R117). -/
def State.withPort (s : State) (o : Bool) (r : Option Response) : State :=
  { s with ovr := o, resp := r }

/-- No completion reads OVR or the response: its branches turn on the operands, the bytes taken and the
memories alone. -/
theorem exec_withPort {i : Instr} (h : exec i s = .next t) (o : Bool) (r : Option Response) :
    exec i (s.withPort o r) = .next (t.withPort o r) := by
  cases i with
  | nop | add | sub | mul | pow | exp | log =>
    obtain rfl := Host.Outcome.next.inj h
    rfl
  | div | genpoly | peval | evsh | gensh | recon | gensub | combine =>
    simp only [exec, execDiv, execGenpoly, execPeval, execEvsh, execGensh, execRecon, execGensub,
      execCombine, State.tables, State.withPort] at h ⊢
    repeat' split at h
    all_goals
      obtain rfl := Host.Outcome.next.inj h
      rfl

/-- The engine's turn in IDLE has nothing to do but to use up the turn (10_state.md R31; entry 5). -/
theorem step_of_idle (hp : s.phase = .idle) (hn : s.engineNext rest) :
    step s = .next { s with events := rest } := by
  simp only [step, s.nextMove_of_engineNext rest hn, State.engineMove, hp]

/-- The engine's turn reads neither OVR nor the response, in any phase, and keeps both. -/
theorem step_withPort_of_engineNext (hn : s.engineNext rest) (hs : step s = .next t) (o : Bool)
    (r : Option Response) : step (s.withPort o r) = .next (t.withPort o r) := by
  have hn' : (s.withPort o r).engineNext rest := hn
  cases hp : s.phase with
  | init =>
    obtain rfl := Host.Outcome.next.inj (hs.symm.trans (step_of_init hp hn))
    exact step_of_init hp hn'
  | idle =>
    obtain rfl := Host.Outcome.next.inj (hs.symm.trans (step_of_idle hp hn))
    exact step_of_idle hp hn'
  | exec w =>
    cases hd : decode w with
    | error e =>
      obtain rfl := Host.Outcome.next.inj (hs.symm.trans (step_of_decode_error hp hn hd))
      exact step_of_decode_error hp hn' hd
    | ok i =>
      rw [step_of_decode_ok hp hn hd] at hs
      rw [step_of_decode_ok (s := s.withPort o r) hp hn' hd]
      exact exec_withPort hs o r

/-! ### The obligation -/

/-- Settles O41: a CMD or data write while BUSY is a drop, the engine reads nothing that a drop changes,
and CTRL and STATUS writes act without a look at the phase. -/
theorem busyWritesAreDropped : Obligations.BusyWritesAreDropped := by
  unfold Obligations.BusyWritesAreDropped
  refine ⟨fun s v rest m x hbusy hdata hx hev => ?_,
    fun s t rest r hn hs => step_withPort_of_engineNext hn hs true r,
    fun s v rest => ⟨step_of_ctrl_write, step_of_status_write⟩⟩
  rcases hev with hev | hev
  · rw [step_of_hostWrite hev, State.hostWrite_cmd_of_busy (s := { s with events := rest }) hbusy]
  · have hp : s.phase ≠ .idle := fun hp => by simp [s.busy_eq_false_iff.2 hp] at hbusy
    rw [step_of_hostWrite hev, State.hostWrite_window_of_not_idle (s := { s with events := rest }) hx
      (MemId.readOnly_eq_false_of_isData hdata) hp]

end Sys2Proof.Machine
end

section
/-! Encoding: decoder and encoder are inverse to each other, each row of the opcode map selects its own
command, and the assembler puts operands where 30_encoding.md R61 says. -/

namespace Sys2Proof.Machine

open Sys2Proof.Claims

/-! ### Decoder and encoder (R54, R57, R58) -/

theorem decode_encode (i : Instr) : decode (encode i) = .ok i := by
  cases i <;> simp [encode, decode, checkReserved]

/-- The fields of a word that decodes are those its command encodes: the row fixes OP, and the check of
the reserved fields fixes the rest. -/
theorem encode_of_decode_ok {w : Word} {i : Instr} (h : decode w = .ok i) : encode i = w := by
  have hop : ∀ n : Nat, (fieldOP w).toNat = n → fieldOP w = BitVec.ofNat 8 n :=
    fun n hn => by rw [← hn, BitVec.ofNat_toNat, BitVec.setWidth_eq]
  rw [← packWord_fields w]
  unfold decode at h
  dsimp only at h
  split at h
  case h_16 => cases h
  case h_12 hrow | h_15 hrow =>
    obtain rfl := Except.ok.inj h
    rw [hop _ hrow]
    rfl
  all_goals
    rename_i hrow
    obtain ⟨hzero, rfl⟩ := (checkReserved_ok_iff _ _ _ _).1 h
    simp only [Bool.and_eq_true, beq_iff_eq] at hzero
    simp [encode, hop _ hrow, hzero]

theorem decode_eq_ok_iff (w : Word) (i : Instr) : decode w = .ok i ↔ encode i = w :=
  ⟨encode_of_decode_ok, by rintro rfl; exact decode_encode i⟩

/-- Settles O1: encoding undoes decoding row by row, and decoding undoes encoding. -/
theorem decodeIsTheInverseOfEncode : Obligations.DecodeIsTheInverseOfEncode :=
  decode_eq_ok_iff

/-! ### The opcode map (R57) -/

theorem packWord_and (c b a op c' b' a' op' : Byte) :
    packWord c b a op &&& packWord c' b' a' op' =
      packWord (c &&& c') (b &&& b') (a &&& a') (op &&& op') := by
  apply BitVec.eq_of_getLsbD_eq
  intro i _
  simp only [BitVec.getLsbD_and, getLsbD_packWord]
  split_ifs <;> rfl

/-- A row selects a word field by field. -/
theorem OpcodeRow.hits_iff (r : OpcodeRow) (w : Word) :
    r.hits w = true ↔
      fieldC w &&& fieldC r.mask = fieldC r.bits ∧ fieldB w &&& fieldB r.mask = fieldB r.bits ∧
      fieldA w &&& fieldA r.mask = fieldA r.bits ∧ fieldOP w &&& fieldOP r.mask = fieldOP r.bits := by
  have hand : w &&& r.mask = packWord (fieldC w &&& fieldC r.mask) (fieldB w &&& fieldB r.mask)
      (fieldA w &&& fieldA r.mask) (fieldOP w &&& fieldOP r.mask) := by
    rw [← packWord_and, packWord_fields, packWord_fields]
  rw [OpcodeRow.hits, beq_iff_eq, hand]
  refine ⟨fun h => by simp [← h], fun ⟨hc, hb, ha, hop⟩ => ?_⟩
  rw [hc, hb, ha, hop, packWord_fields]

/-- A packed word is `w` exactly when the fields of `w` are those packed. -/
theorem packWord_eq_iff (c b a op : Byte) (w : Word) :
    packWord c b a op = w ↔ fieldC w = c ∧ fieldB w = b ∧ fieldA w = a ∧ fieldOP w = op := by
  refine ⟨by rintro rfl; simp, ?_⟩
  rintro ⟨rfl, rfl, rfl, rfl⟩
  exact packWord_fields w

/-- The command of row `n` with the operand fields of `w`. -/
def rowInstr (w : Word) : Nat → Instr
  | 0 => .nop
  | 1 => .add (fieldA w) (fieldB w)
  | 2 => .sub (fieldA w) (fieldB w)
  | 3 => .mul (fieldA w) (fieldB w)
  | 4 => .div (fieldA w) (fieldB w)
  | 5 => .pow (fieldA w) (fieldB w)
  | 6 => .exp (fieldA w)
  | 7 => .log (fieldA w)
  | 8 => .genpoly (fieldA w) (fieldB w)
  | 9 => .peval (fieldA w) (fieldB w)
  | 10 => .evsh (fieldA w) (fieldB w)
  | 11 => .gensh (fieldA w) (fieldB w) (fieldC w)
  | 12 => .recon (fieldA w) (fieldB w)
  | 13 => .gensub (fieldA w) (fieldB w)
  | _ => .combine (fieldA w) (fieldB w) (fieldC w)

theorem rowInstr_encode (i : Instr) : rowInstr (encode i) i.rowIndex = i := by
  cases i <;> simp [rowInstr, Instr.rowIndex, encode]

theorem rowIndex_rowInstr (w : Word) {n : Nat} (h : n < opcodeMap.length) :
    (rowInstr w n).rowIndex = n := by
  have hn : n < 15 := h
  interval_cases n <;> rfl

/-- A row hits a word exactly when the row's command, with the word's operand fields, encodes to it:
the mask keeps OP and the reserved fields, and the match is the row's OP with zeros there. -/
theorem hits_iff_encode_rowInstr (w : Word) {n : Nat} (h : n < opcodeMap.length) :
    opcodeMap[n].hits w = true ↔ encode (rowInstr w n) = w := by
  have hkeep : ∀ x : Byte, x &&& 255#8 = x := fun x => by
    rw [show (255#8) = BitVec.allOnes 8 from by decide, BitVec.and_allOnes]
  have hn : n < 15 := h
  rw [OpcodeRow.hits_iff]
  interval_cases n <;>
    simp only [opcodeMap, List.getElem_cons_zero, List.getElem_cons_succ, rowInstr, encode,
      packWord_eq_iff] <;>
    simp [fieldOP, fieldA, fieldB, fieldC, hkeep]

/-- Settles O2: a row hits what its own command encodes to, which is what decodes to a command of the
row. -/
theorem opcodeRowsSelectTheCommand : Obligations.OpcodeRowsSelectTheCommand := by
  unfold Obligations.OpcodeRowsSelectTheCommand
  intro w n h
  rw [hits_iff_encode_rowInstr w h]
  refine ⟨fun henc => ⟨_, (decode_eq_ok_iff _ _).2 henc, rowIndex_rowInstr w h⟩, ?_⟩
  rintro ⟨i, hdec, rfl⟩
  obtain rfl := (decode_eq_ok_iff _ _).1 hdec
  rw [rowInstr_encode]

/-- Settles O3: each example word is the encoding of the command the spec writes beside it. -/
theorem exampleWordsDecodeAsWritten : Obligations.ExampleWordsDecodeAsWritten := by
  unfold Obligations.ExampleWordsDecodeAsWritten
  simp only [decode_eq_ok_iff]
  decide

/-! ### The assembler (R61) -/

theorem AsmLine.wf_iff (l : AsmLine) :
    l.wf = true ↔ l.operands.length = l.op.arity ∧ ∀ x ∈ l.operands, x ≤ 255 := by
  simp [AsmLine.wf, AsmLine.countOk, AsmLine.rangeOk, Nat.lt_succ_iff]

theorem assemble_of_not_wf {l : AsmLine} (h : ¬ l.wf = true) : assemble l = none := by
  rw [assemble, if_neg h]

/-- A well-formed line assembles, with its mnemonic's OP; by the mnemonic, whose arity fixes the shape
of the operand list, the operands are in A, B, C unless it is a pseudo-instruction's. -/
theorem assemble_of_wf {l : AsmLine} (h : l.wf = true) :
    ∃ i, assemble l = some i ∧ fieldOP (encode i) = mnemonicOP l.op ∧
      (l.op ∉ [AsmOp.inv, .sqr, .movr, .neg] →
        fieldA (encode i) = BitVec.ofNat 8 (l.operands.getD 0 0) ∧
        fieldB (encode i) = BitVec.ofNat 8 (l.operands.getD 1 0) ∧
        fieldC (encode i) = BitVec.ofNat 8 (l.operands.getD 2 0)) := by
  obtain ⟨hlen, -⟩ := (AsmLine.wf_iff l).1 h
  obtain ⟨op, operands⟩ := l
  cases op with
  | nop =>
    obtain rfl := List.length_eq_zero_iff.1 hlen
    simp [assemble, h, encode, mnemonicOP]
  | exp | log | inv | sqr | movr | neg =>
    obtain ⟨a, rfl⟩ := List.length_eq_one_iff.1 hlen
    simp [assemble, h, encode, mnemonicOP]
  | add | sub | mul | div | pow | genpoly | peval | evsh | recon | gensub =>
    obtain ⟨a, b, rfl⟩ := List.length_eq_two.1 hlen
    simp [assemble, h, encode, mnemonicOP]
  | gensh | combine =>
    obtain ⟨a, b, c, rfl⟩ := List.length_eq_three.1 hlen
    simp [assemble, h, encode, mnemonicOP]

/-- Settles O5: the lines taken are the well-formed ones, and the word of each is known. -/
theorem assemblerPlacesItsOperands : Obligations.AssemblerPlacesItsOperands := by
  unfold Obligations.AssemblerPlacesItsOperands
  intro l
  rw [← AsmLine.wf_iff]
  by_cases h : l.wf = true
  · obtain ⟨i, hi, hplaces⟩ := assemble_of_wf h
    refine ⟨by simp [hi, h], fun j hj => ?_⟩
    obtain rfl := Option.some.inj (hi.symm.trans hj)
    exact hplaces
  · simp [assemble_of_not_wf h, h]

end Sys2Proof.Machine
end

section
/-! Everything one step can do, said once as a list of effects, and what follows of it over every step:
the invariant, the phase, the memories, RESULT and the flags (00_scope.md R6, 10_state.md R31). -/

namespace Sys2Proof.Machine

open Sys2Proof.Claims

/-! ### Offsets from locations (20_memory.md R38) -/

/-- Only one offset names each register that the host writes. -/
theorem eq_of_portLoc_register {off : Offset} {l : Loc} (h : portLoc off = l) :
    (l = .ctrl → off = 0x004) ∧ (l = .status → off = 0x008) ∧ (l = .cmd → off = 0x00C) := by
  have hcovers := h ▸ portLoc_covers off
  refine ⟨?_, ?_, ?_⟩ <;>
    · rintro rfl
      exact BitVec.eq_of_toNat_eq hcovers

/-- A window location is word `base / 4` of its window. -/
theorem eq_windowOffset_of_portLoc {off : Offset} {m : MemId} {base : Byte}
    (h : portLoc off = .window m base) :
    base.toNat / 4 < 64 ∧ off = windowOffset m (base.toNat / 4) := by
  obtain ⟨halign, hoff⟩ := h ▸ portLoc_covers off
  have := base.isLt
  have := windowBase_page m
  refine ⟨by omega, BitVec.eq_of_toNat_eq ?_⟩
  rw [windowOffset, BitVec.toNat_ofNat]
  omega

theorem MemId.isData_of_readOnly_eq_false {m : MemId} (h : m.readOnly = false) :
    isData m = true := by
  cases m with
  | coef | xs | ys | sub => rfl
  | exp | log => contradiction

/-! ### The effects of a step -/

/-- What one step can do, by the agent that moves. The response `r` of a host transaction is left open:
no later step reads it. -/
inductive StepEffect (s : State) : State → Prop
  /-- A read, or a write with an error response (20_memory.md R38, R41). -/
  | transaction {e rest} (hev : s.events = e :: rest) (r : Option Response) :
      StepEffect s { s with events := rest, resp := r }
  /-- The reset of 70_reset_and_hazards.md R112. -/
  | reset {e rest} (hev : s.events = e :: rest) (hreset : isReset e = true) (r : Option Response) :
      StepEffect s (afterReset { s with events := rest, resp := r })
  /-- A CTRL write that is no soft reset (10_state.md R18). -/
  | enable {v rest} (hev : s.events = .hostWrite 0x004 v :: rest) (r : Option Response) :
      StepEffect s { s with events := rest, resp := r, ie := v.getLsbD 0 }
  /-- A STATUS write (R19). -/
  | acknowledge {v rest} (hev : s.events = .hostWrite 0x008 v :: rest) (r : Option Response) :
      StepEffect s { s with events := rest, resp := r, done := s.done && !v.getLsbD 2,
                            ovr := s.ovr && !v.getLsbD 4 }
  /-- A CMD write in IDLE (R33). -/
  | accept {w rest} (hev : s.events = .hostWrite 0x00C w :: rest) (hidle : s.phase = .idle)
      (r : Option Response) :
      StepEffect s { s with events := rest, resp := r, done := false, errcode := .ok,
                            phase := .exec w, taken := [] }
  /-- A write to a data window in IDLE (20_memory.md R43). -/
  | store {m x v rest mem} (hev : s.events = .hostWrite (windowOffset m x) v :: rest)
      (hidle : s.phase = .idle) (hdata : isData m = true) (hx : x < 64)
      (hwf : (s.mem m).wf = true → mem.wf = true) (r : Option Response) :
      StepEffect s ({ s with events := rest, resp := r }.setMem m mem)
  /-- A CMD or data write while BUSY (70_reset_and_hazards.md R117). -/
  | drop {off v rest} (hev : s.events = .hostWrite off v :: rest) (hbusy : s.busy = true)
      (hoff : off = 0x00C ∨ ∃ m x, isData m = true ∧ x < 64 ∧ off = windowOffset m x)
      (r : Option Response) :
      StepEffect s { s with events := rest, resp := r, ovr := true }
  /-- An entropy byte that a command in flight needs (10_state.md R35). -/
  | take {b rest} (hev : s.events = .entropy b :: rest) (hwants : s.wantsEntropy = true) :
      StepEffect s { s with events := rest, taken := s.taken ++ [b] }
  /-- An entropy byte that none needs (R35). -/
  | ignore {b rest} (hev : s.events = .entropy b :: rest) : StepEffect s { s with events := rest }
  /-- Init completes (70_reset_and_hazards.md R113). -/
  | init {rest} (hnext : s.engineNext rest) (hinit : s.phase = .init) :
      StepEffect s { s with events := rest }.initComplete
  /-- The engine's turn in IDLE, or in a stall (entry 5). -/
  | wait {rest} (hnext : s.engineNext rest) : StepEffect s { s with events := rest }
  /-- A command, or an illegal word, fails (60_exceptions.md R99). -/
  | fail {w rest} (hnext : s.engineNext rest) (hexec : s.phase = .exec w) (e : ErrCode) :
      StepEffect s (finished { s with events := rest } e)
  /-- A command succeeds (10_state.md R34). -/
  | succeed {w i rest x y c xs ys b} (hnext : s.engineNext rest) (hexec : s.phase = .exec w)
      (hdec : decode w = .ok i)
      (hresult : writesResult i = false → x = s.rx ∧ y = s.ry)
      (hwf : s.memoriesWf = true → c.wf = true ∧ xs.wf = true ∧ ys.wf = true ∧ b.wf = true) :
      StepEffect s (finished { s with events := rest, rx := x, ry := y, coef := c, xs := xs,
                                      ys := ys, sub := b } .ok)

/-- A command that does not write RESULT leaves it (10_state.md R22). -/
theorem exec_result_of_not_writesResult {i : Instr} {s t : State} (hi : writesResult i = false)
    (h : exec i s = .next t) : t.rx = s.rx ∧ t.ry = s.ry := by
  cases i with
  | nop =>
    obtain rfl := Host.Outcome.next.inj h
    exact ⟨rfl, rfl⟩
  | genpoly | evsh | gensh | gensub =>
    simp only [exec, execGenpoly, execEvsh, execGensh, execGensub] at h
    repeat' split at h
    all_goals
      obtain rfl := Host.Outcome.next.inj h
      exact ⟨rfl, rfl⟩
  | _ => contradiction

variable {s t : State} {rest : List Event}

/-- The effects of the completion of a command that decodes. -/
theorem stepEffect_of_exec {w : Word} {i : Instr} (hn : s.engineNext rest) (hp : s.phase = .exec w)
    (hd : decode w = .ok i) (h : exec i { s with events := rest } = .next t) : StepEffect s t := by
  rcases exec_cases i { s with events := rest } with ⟨e, he⟩ | he | ⟨x, y, c, xs, ys, b, he, hwf⟩ <;>
    obtain rfl := Host.Outcome.next.inj (h.symm.trans he)
  · exact .fail hn hp e
  · exact .wait hn
  · exact .succeed hn hp hd (fun hi => exec_result_of_not_writesResult hi h) hwf

/-- The effects of the engine's turn, by the phase. -/
theorem stepEffect_of_engineNext (hn : s.engineNext rest) (h : step s = .next t) :
    StepEffect s t := by
  cases hp : s.phase with
  | init =>
    obtain rfl := Host.Outcome.next.inj (h.symm.trans (step_of_init hp hn))
    exact .init hn hp
  | idle =>
    obtain rfl := Host.Outcome.next.inj (h.symm.trans (step_of_idle hp hn))
    exact .wait hn
  | exec w =>
    cases hd : decode w with
    | error e =>
      obtain rfl := Host.Outcome.next.inj (h.symm.trans (step_of_decode_error hp hn hd))
      exact .fail hn hp .illegalCommand
    | ok i => exact stepEffect_of_exec hn hp hd ((step_of_decode_ok hp hn hd).symm.trans h)

/-- The response held is no part of a memory. -/
theorem State.setMem_withResp (s : State) (m : MemId) (mem : Memory) (r : Option Response) :
    { s.setMem m mem with resp := r } = { s with resp := r }.setMem m mem := by
  cases m <;> rfl

/-- The effects of a host write, by its location. -/
theorem stepEffect_of_hostWrite {off : Offset} {v : Word}
    (hev : s.events = .hostWrite off v :: rest) :
    StepEffect s ({ s with events := rest }.hostWrite off v) := by
  unfold State.hostWrite
  obtain ⟨hctrl, hstatus, hcmd⟩ := eq_of_portLoc_register (off := off) rfl
  rcases State.writeLoc_cases { s with events := rest } (portLoc off) v with
    ⟨-, he⟩ | ⟨hl, he⟩ | ⟨hl, he⟩ | ⟨hl, hp, he⟩ | ⟨m, base, hl, hm, hp, he⟩ | ⟨hl, hbusy, he⟩ <;>
    rw [he]
  · exact .transaction hev _
  · obtain rfl := hctrl hl
    rcases State.writeCtrl_cases { s with events := rest } v with ⟨hv, he'⟩ | ⟨-, he'⟩ <;> rw [he']
    · exact .reset hev (by simp [isReset, hv]) _
    · exact .enable hev _
  · obtain rfl := hstatus hl
    exact .acknowledge hev _
  · obtain rfl := hcmd hl
    exact .accept hev hp _
  · obtain ⟨hx, rfl⟩ := eq_windowOffset_of_portLoc hl
    rw [State.setMem_withResp, State.mem_withEvents]
    exact .store hev hp (MemId.isData_of_readOnly_eq_false hm) hx (Memory.writeWord_wf _ _ _) _
  · refine .drop hev hbusy ?_ _
    rcases hl with hl | ⟨m, base, hl, hm⟩
    · exact .inl (hcmd hl)
    · obtain ⟨hx, hoff⟩ := eq_windowOffset_of_portLoc hl
      exact .inr ⟨m, _, MemId.isData_of_readOnly_eq_false hm, hx, hoff⟩

/-- Every step has one of the effects listed. -/
theorem stepEffect_of_step (h : step s = .next t) : StepEffect s t := by
  obtain ⟨rest, hn, -⟩ | ⟨e, rest, -, hev, hne, -⟩ := s.nextMove_cases
  · exact stepEffect_of_engineNext hn h
  cases e with
  | engine => exact absurd rfl hne
  | hostRead off draw =>
    obtain rfl := Host.Outcome.next.inj (h.symm.trans (step_of_hostRead hev))
    exact .transaction hev _
  | hostWrite off v =>
    obtain rfl := Host.Outcome.next.inj (h.symm.trans (step_of_hostWrite hev))
    exact stepEffect_of_hostWrite hev
  | hardwareReset =>
    obtain rfl := Host.Outcome.next.inj (h.symm.trans (step_of_hardwareReset hev))
    exact .reset hev rfl s.resp
  | entropy b =>
    obtain rfl := Host.Outcome.next.inj (h.symm.trans (step_of_entropy hev))
    rcases State.takeEntropy_cases { s with events := rest } b with ⟨hw, he⟩ | ⟨-, he⟩ <;> rw [he]
    · exact .take hev hw
    · exact .ignore hev

/-! ### The invariant -/

theorem State.memoriesWf_setMem {m : MemId} {mem : Memory} (h : s.memoriesWf = true)
    (hmem : mem.wf = true) : (s.setMem m mem).memoriesWf = true := by
  simp only [State.memoriesWf, Bool.and_eq_true] at h ⊢
  obtain ⟨⟨⟨⟨⟨hcoef, hxs⟩, hys⟩, hsub⟩, hexp⟩, hlog⟩ := h
  cases m <;> simp only [State.setMem] <;> tauto

/-- A host write to a data window leaves the tables. -/
theorem State.setMem_tables {m : MemId} (hdata : isData m = true) (mem : Memory) :
    (s.setMem m mem).expT = s.expT ∧ (s.setMem m mem).logT = s.logT := by
  cases m with
  | coef | xs | ys | sub => exact ⟨rfl, rfl⟩
  | exp | log => contradiction

theorem State.initComplete_memoriesWf (s : State) : s.initComplete.memoriesWf = true := by
  simp [State.memoriesWf, expTable_wf, logTable_wf]

/-- In IDLE only the canonical form, the tables and the bytes held are left to check. -/
theorem State.inv_of_idle (hp : s.phase = .idle) (hwf : s.memoriesWf = true)
    (hbuilt : s.tablesBuilt) (htaken : s.taken = []) : s.Inv := by
  refine ⟨hwf, fun _ => hbuilt, fun hbusy => ?_, fun hinit => ?_, ?_⟩
  · simp [s.busy_eq_false_iff.2 hp] at hbusy
  · simp [hp] at hinit
  · simp [State.takenOk, hp, htaken]

/-- Outside EXEC no entropy byte is held. -/
theorem State.taken_eq_nil (h : s.takenOk = true) (hp : s.phase = .init ∨ s.phase = .idle) :
    s.taken = [] := by
  rcases hp with hp | hp <;> simpa [State.takenOk, hp] using h

/-- The byte that a command took last was needed. -/
theorem State.takenOk_of_wantsEntropy (h : s.wantsEntropy = true) (b : Byte) :
    { s with taken := s.taken ++ [b] }.takenOk = true := by
  cases hp : s.phase with
  | init | idle => simp [State.wantsEntropy, hp] at h
  | exec w =>
    have hneeds : (drawCoeffs (drawsOfWord w) s.taken).isNone = true := by
      simpa only [State.wantsEntropy, hp] using h
    simp [State.takenOk, hneeds]

/-- Each effect keeps the invariant. -/
theorem StepEffect.inv (h : StepEffect s t) (hinv : s.Inv) : t.Inv := by
  obtain ⟨hwf, htables, houtcome, hresult, htaken⟩ := hinv
  cases h with
  | transaction | ignore | wait | enable | drop => exact ⟨hwf, htables, houtcome, hresult, htaken⟩
  | reset => exact ⟨hwf, nofun, fun _ => ⟨rfl, rfl⟩, fun _ => ⟨rfl, rfl⟩, rfl⟩
  | acknowledge =>
    refine ⟨hwf, htables, fun hbusy => ?_, hresult, htaken⟩
    obtain ⟨hdone, hok⟩ := houtcome hbusy
    exact ⟨by simp [hdone], hok⟩
  | accept hev hidle =>
    exact ⟨hwf, fun _ => htables (by simp [hidle]), fun _ => ⟨rfl, rfl⟩, nofun, rfl⟩
  | store hev hidle hdata hx hmem =>
    obtain ⟨hexp, hlog⟩ := htables (by simp [hidle])
    obtain ⟨hexp', hlog'⟩ := State.setMem_tables hdata _
    exact State.inv_of_idle ((State.setMem_phase _ _ _).trans hidle)
      (State.memoriesWf_setMem hwf (hmem (State.mem_wf hwf _))) ⟨hexp'.trans hexp, hlog'.trans hlog⟩
      ((State.setMem_taken _ _ _).trans (State.taken_eq_nil htaken (.inr hidle)))
  | take hev hwants =>
    exact ⟨hwf, htables, houtcome, hresult, State.takenOk_of_wantsEntropy hwants _⟩
  | init hn hp =>
    exact State.inv_of_idle rfl (State.initComplete_memoriesWf _) ⟨rfl, rfl⟩
      (State.taken_eq_nil (s := s) htaken (.inl hp))
  | fail hn hp => exact State.inv_of_idle rfl hwf (htables (by simp [hp])) rfl
  | succeed hn hp hd hr hmem =>
    obtain ⟨hc, hxs, hys, hb⟩ := hmem hwf
    refine State.inv_of_idle rfl ?_ (htables (by simp [hp])) rfl
    simp only [State.memoriesWf, Bool.and_eq_true] at hwf ⊢
    obtain ⟨⟨-, hexp⟩, hlog⟩ := hwf
    exact ⟨⟨⟨⟨⟨hc, hxs⟩, hys⟩, hb⟩, hexp⟩, hlog⟩

/-- Settles O51: a step has one of the effects listed, and each keeps the invariant. -/
theorem everyStepKeepsTheInvariant : Obligations.EveryStepKeepsTheInvariant := by
  unfold Obligations.EveryStepKeepsTheInvariant
  exact fun s t hinv hs => (stepEffect_of_step hs).inv hinv

/-- Settles O50: every memory is empty, and the phase is INIT with flags and RESULT zero. -/
theorem resetMeetsTheInvariant : Obligations.ResetMeetsTheInvariant :=
  ⟨State.reset_memoriesWf, fun h => absurd rfl h, fun _ => ⟨rfl, rfl⟩, fun _ => ⟨rfl, rfl⟩, rfl⟩

/-! ### The phase (R31) -/

/-- Settles O36: the effects that move the phase are the reset, the end of init, the end of a command
and the acceptance. -/
theorem phaseMovesOnlyAsListed : Obligations.PhaseMovesOnlyAsListed := by
  unfold Obligations.PhaseMovesOnlyAsListed
  intro s t hs
  cases stepEffect_of_step hs with
  | reset hev hreset => exact .inr (.inl ⟨rfl, _, _, hev, hreset⟩)
  | init hn hp => exact .inr (.inr (.inl ⟨hp, rfl, _, hn⟩))
  | fail hn hp | succeed hn hp => exact .inr (.inr (.inr (.inl ⟨⟨_, hp⟩, rfl, _, hn⟩)))
  | accept hev hidle => exact .inr (.inr (.inr (.inr ⟨hidle, _, _, rfl, hev⟩)))
  | store => exact .inl (State.setMem_phase _ _ _)
  | _ => exact .inl rfl

/-! ### Memories and RESULT -/

/-- Settles O48: only the end of init replaces the tables, and besides it only a command's success and
a store replace a data memory. -/
theorem memoriesChangeOnlyAsListed : Obligations.MemoriesChangeOnlyAsListed := by
  unfold Obligations.MemoriesChangeOnlyAsListed
  intro s t hs
  cases stepEffect_of_step hs with
  | init hn hp => exact ⟨fun _ => ⟨hp, rfl, _, hn⟩, fun _ => .inl ⟨by simp [hp], rfl, _, hn⟩⟩
  | succeed hn hp =>
    exact ⟨fun h => absurd h (by simp), fun _ => .inl ⟨by simp [hp], rfl, _, hn⟩⟩
  | @store m x v rest mem hev hidle hdata hx =>
    refine ⟨fun h => absurd h ?_, fun _ => .inr ⟨hidle, _, _, _, _, hdata, hx, hev⟩⟩
    cases m with
    | exp | log => contradiction
    | _ => simp [State.setMem]
  | _ => exact ⟨fun h => absurd h (by simp), fun h => absurd h (by simp)⟩

/-- Settles O49: besides a reset only a command's success replaces RESULT, and only where the command
writes it. -/
theorem resultChangesOnlyAtSuccess : Obligations.ResultChangesOnlyAtSuccess := by
  unfold Obligations.ResultChangesOnlyAtSuccess
  intro s t hs hchange
  cases stepEffect_of_step hs with
  | reset hev hreset => exact .inl ⟨_, _, hev, hreset⟩
  | @succeed w i _ _ _ _ _ _ _ _ hp hd hresult =>
    refine .inr ⟨w, i, hp, hd, ?_, rfl, rfl, rfl⟩
    by_contra hi
    obtain ⟨rfl, rfl⟩ := hresult (Bool.eq_false_of_not_eq_true hi)
    simp at hchange
  | store => simp at hchange
  | _ => simp at hchange

/-! ### The flags (R18, R19, R24) -/

theorem StepEffect.ie_changed (h : StepEffect s t) (hne : t.ie ≠ s.ie) :
    resetComes s ∨ writeComes s 0x004 fun v => t.ie = v.getLsbD 0 := by
  cases h with
  | reset hev hreset => exact .inl ⟨_, _, hev, hreset⟩
  | enable hev => exact .inr ⟨_, _, hev, rfl⟩
  | store => exact absurd (State.setMem_ie _ _ _) hne
  | _ => exact absurd rfl hne

theorem StepEffect.done_set (h : StepEffect s t) (hs : s.done = false) (ht : t.done = true) :
    completes s t := by
  cases h with
  | fail hn hp | succeed hn hp => exact ⟨⟨_, hp⟩, rfl, _, hn⟩
  | reset | accept => exact absurd ht Bool.false_ne_true
  | acknowledge | store => simp [hs] at ht
  | _ => exact absurd (hs.symm.trans ht) Bool.false_ne_true

theorem StepEffect.done_cleared (h : StepEffect s t) (hs : s.done = true) (ht : t.done = false) :
    resetComes s ∨ accepts s ∨ writeComes s 0x008 fun v => v.getLsbD 2 = true := by
  cases h with
  | reset hev hreset => exact .inl ⟨_, _, hev, hreset⟩
  | accept hev hidle => exact .inr (.inl ⟨hidle, _, _, hev, trivial⟩)
  | acknowledge hev => exact .inr (.inr ⟨_, _, hev, by simpa [hs] using ht⟩)
  | fail | succeed => exact absurd ht.symm Bool.false_ne_true
  | store => simp [hs] at ht
  | _ => exact absurd (ht.symm.trans hs) Bool.false_ne_true

theorem StepEffect.ovr_set (h : StepEffect s t) (hs : s.ovr = false) (ht : t.ovr = true) :
    s.busy = true ∧ ((writeComes s 0x00C fun _ => True) ∨
      ∃ m x, isData m = true ∧ x < 64 ∧ writeComes s (windowOffset m x) fun _ => True) := by
  cases h with
  | drop hev hbusy hoff =>
    refine ⟨hbusy, ?_⟩
    rcases hoff with rfl | ⟨m, x, hdata, hx, rfl⟩
    · exact .inl ⟨_, _, hev, trivial⟩
    · exact .inr ⟨m, x, hdata, hx, _, _, hev, trivial⟩
  | reset => exact absurd ht Bool.false_ne_true
  | acknowledge | store => simp [hs] at ht
  | _ => exact absurd (hs.symm.trans ht) Bool.false_ne_true

theorem StepEffect.ovr_cleared (h : StepEffect s t) (hs : s.ovr = true) (ht : t.ovr = false) :
    resetComes s ∨ writeComes s 0x008 fun v => v.getLsbD 4 = true := by
  cases h with
  | reset hev hreset => exact .inl ⟨_, _, hev, hreset⟩
  | acknowledge hev => exact .inr ⟨_, _, hev, by simpa [hs] using ht⟩
  | drop => exact absurd ht.symm Bool.false_ne_true
  | store => simp [hs] at ht
  | _ => exact absurd (ht.symm.trans hs) Bool.false_ne_true

theorem StepEffect.errcode_changed (h : StepEffect s t) (hne : t.errcode ≠ s.errcode) :
    completes s t ∨ resetComes s ∨ accepts s := by
  cases h with
  | fail hn hp | succeed hn hp => exact .inl ⟨⟨_, hp⟩, rfl, _, hn⟩
  | reset hev hreset => exact .inr (.inl ⟨_, _, hev, hreset⟩)
  | accept hev hidle => exact .inr (.inr ⟨hidle, _, _, hev, trivial⟩)
  | store => exact absurd (State.setMem_errcode _ _ _) hne
  | _ => exact absurd rfl hne

/-- Settles O53: flag by flag, the effects that move it. -/
theorem flagsChangeOnlyAsListed : Obligations.FlagsChangeOnlyAsListed := by
  unfold Obligations.FlagsChangeOnlyAsListed
  intro s t hs
  have h := stepEffect_of_step hs
  exact ⟨h.ie_changed, h.done_set, h.done_cleared, h.ovr_set, h.ovr_cleared, h.errcode_changed⟩

end Sys2Proof.Machine
end

section
/-! The engine's turn and the entropy port: every step has a next state, a command short of draws stays
in flight, and a byte is taken only while one is needed (10_state.md R34, R35, 70_reset_and_hazards.md
R119). -/

namespace Sys2Proof.Machine

open Sys2Proof.Claims

variable {s t : State} {rest : List Event} {w : Word} {i : Instr}

/-! ### Every step has a next state -/

theorem exists_exec_next (i : Instr) (s : State) : ∃ t, exec i s = .next t := by
  rcases exec_cases i s with ⟨e, h⟩ | h | ⟨x, y, c, xs, ys, b, h, -⟩ <;> exact ⟨_, h⟩

theorem exists_step_of_engineNext (hn : s.engineNext rest) : ∃ t, step s = .next t := by
  cases hp : s.phase with
  | init => exact ⟨_, step_of_init hp hn⟩
  | idle => exact ⟨_, step_of_idle hp hn⟩
  | exec w =>
    cases hd : decode w with
    | error e => exact ⟨_, step_of_decode_error hp hn hd⟩
    | ok i =>
      rw [step_of_decode_ok hp hn hd]
      exact exists_exec_next i _

/-- Settles O8: an outside event ends in a known state, and so does the engine's turn in each phase. -/
theorem everyStepHasANextState : Obligations.EveryStepHasANextState := by
  unfold Obligations.EveryStepHasANextState
  intro s
  obtain ⟨rest, hn, -⟩ | ⟨e, rest, t, -, -, hmove, -⟩ := s.nextMove_cases
  · exact exists_step_of_engineNext hn
  · exact ⟨t, by rw [step, hmove]⟩

/-- Settles O7: the engine's turn in EXEC runs the decoded command. -/
theorem stepRunsTheDecodedCommand : Obligations.StepRunsTheDecodedCommand := by
  unfold Obligations.StepRunsTheDecodedCommand
  exact fun s w i rest hp hd hn => step_of_decode_ok hp hn hd

/-- Settles O52: the engine's turn in IDLE only uses up the turn. -/
theorem idleTurnChangesNothing : Obligations.IdleTurnChangesNothing := by
  unfold Obligations.IdleTurnChangesNothing
  exact fun s rest => step_of_idle

/-! ### The draws a command needs (41_polynomial.md R84) -/

/-- Draws that hang on a check of k against a count `n` hang on k ≤ n: a zero k needs none anyway. -/
theorem drawsAfter_eq {c : Option ErrCode} {k n : Byte}
    (h : c = none ↔ k ≠ 0 ∧ count k ≤ count n) :
    drawsAfter c k = if k.toNat ≤ n.toNat then k.toNat - 1 else 0 := by
  by_cases hk : k = 0
  · subst hk
    cases c <;> simp [drawsAfter, count]
  · by_cases hle : k.toNat ≤ n.toNat
    · simp [h.2 ⟨hk, hle⟩, drawsAfter, hle, count]
    · cases c with
      | none => exact absurd (h.1 rfl).2 hle
      | some e => simp [drawsAfter, hle]

/-- The draws that the spec counts are those of the model. -/
theorem draws_eq_drawsNeeded (i : Instr) : draws i = drawsNeeded i := by
  cases i with
  | genpoly k secret =>
    by_cases hk : k = 0
    · subst hk
      rfl
    · simp [draws, (checkK_none_iff k).2 hk, drawsAfter, drawsNeeded, count]
  | gensh k n secret => exact drawsAfter_eq (checkKn_none_iff k n)
  | gensub k m => exact drawsAfter_eq (checkPlayers_none_iff k m)
  | _ => rfl

theorem drawsOfWord_eq_needed (w : Word) : drawsOfWord w = needed w := by
  unfold drawsOfWord needed
  cases decode w with
  | error e => rfl
  | ok i => exact draws_eq_drawsNeeded i

/-- In EXEC the engine wants a byte exactly while the nonzero ones are too few. -/
theorem State.wantsEntropy_iff (hp : s.phase = .exec w) :
    s.wantsEntropy = true ↔ (useful s.taken).length < needed w := by
  simp only [State.wantsEntropy, hp, drawCoeffs_isNone_iff, drawsOfWord_eq_needed]
  rfl

/-- In INIT and IDLE the engine wants none. -/
theorem State.wantsEntropy_of_not_exec (h : ∀ w, s.phase ≠ .exec w) : s.wantsEntropy = false := by
  cases hp : s.phase with
  | init | idle => simp [State.wantsEntropy, hp]
  | exec w => exact absurd hp (h w)

theorem State.wantsEntropy_eq_false (h : ∀ w, s.phase = .exec w → needed w ≤ (useful s.taken).length) :
    s.wantsEntropy = false := by
  by_cases hexec : ∃ w, s.phase = .exec w
  · obtain ⟨w, hp⟩ := hexec
    have := h w hp
    rw [← Bool.not_eq_true, State.wantsEntropy_iff hp]
    omega
  · exact State.wantsEntropy_of_not_exec fun w hp => hexec ⟨w, hp⟩

/-- Settles O33: the engine takes a byte exactly while it wants one, which in EXEC is while draws are
missing, and in the other phases never. -/
theorem entropyIsTakenOnlyWhenNeeded : Obligations.EntropyIsTakenOnlyWhenNeeded := by
  unfold Obligations.EntropyIsTakenOnlyWhenNeeded
  intro s b rest hev
  rw [step_of_entropy hev, State.takeEntropy]
  refine ⟨fun w hp hlt => ?_, fun henough => ?_⟩
  · rw [if_pos ((State.wantsEntropy_iff (s := { s with events := rest }) hp).2 hlt)]
  · have hno := State.wantsEntropy_eq_false (s := { s with events := rest }) henough
    rw [hno, if_neg Bool.false_ne_true]

/-! ### Stalls -/

/-- A command whose draws have not all arrived waits: its operand checks have passed, and the draw of
its coefficients finds too few bytes. -/
theorem exec_of_stalled (h : (useful s.taken).length < draws i) : exec i s = .next s := by
  cases i with
  | genpoly k _ | gensh k _ _ | gensub k _ =>
    have hc := check_eq_none_of_drawsAfter_ne_zero (Nat.ne_zero_of_lt h)
    simp only [draws, hc, drawsAfter] at h
    have hnone := Option.isNone_iff_eq_none.1 ((drawCoeffs_isNone_iff _ s.taken).2 h)
    simp only [exec, execGenpoly, execGensh, execGensub, hc, hnone, State.awaitEntropy]
  | _ => exact absurd h (Nat.not_lt_zero _)

/-- The engine's turn on a stalled command only uses up the turn. -/
theorem step_of_stalled (hp : s.phase = .exec w) (hstall : (useful s.taken).length < needed w)
    (hn : s.engineNext rest) : step s = .next { s with events := rest } := by
  rw [← drawsOfWord_eq_needed, drawsOfWord] at hstall
  cases hd : decode w with
  | error e => simp [hd] at hstall
  | ok i =>
    rw [hd] at hstall
    rw [step_of_decode_ok hp hn hd]
    exact exec_of_stalled (s := { s with events := rest }) hstall

/-- A step that changes the phase of a stalled command is a reset. -/
theorem phase_of_stalled (hp : s.phase = .exec w) (hstall : (useful s.taken).length < needed w)
    (hs : step s = .next t) : t.phase = .exec w ∨ (t.phase = .init ∧ resetComes s) := by
  cases stepEffect_of_step hs with
  | reset hev hreset => exact .inr ⟨rfl, _, _, hev, hreset⟩
  | init _ hp' | accept _ hp' | store _ hp' => simp [hp] at hp'
  | fail hn | succeed hn =>
    have hwait := Host.Outcome.next.inj (hs.symm.trans (step_of_stalled hp hstall hn))
    exact .inl (by rw [hwait, hp])
  | _ => exact .inl hp

/-- A reset enters INIT. -/
theorem phase_of_reset {e : Event} (hev : s.events = e :: rest) (hreset : isReset e = true)
    (hs : step s = .next t) : t.phase = .init := by
  rcases isReset_cases hreset with rfl | ⟨v, rfl, hv⟩
  · obtain rfl := Host.Outcome.next.inj (hs.symm.trans (step_of_hardwareReset hev))
    rfl
  · obtain rfl := Host.Outcome.next.inj (hs.symm.trans (step_of_ctrl_write hev))
    rw [if_pos hv]

/-- Settles O34: the engine's turn finds the draws missing and waits, and of the other steps only a
reset moves the phase out of EXEC. -/
theorem stalledCommandStaysInFlight : Obligations.StalledCommandStaysInFlight := by
  unfold Obligations.StalledCommandStaysInFlight
  refine fun s t w hp hstall hs => ⟨fun e rest hev hreset => phase_of_reset hev hreset hs,
    fun hquiet => ?_, fun rest hn => ?_⟩
  · obtain hphase | ⟨-, e, rest, hev, hreset⟩ := phase_of_stalled hp hstall hs
    · exact ⟨hphase, t.busy_of_exec w hphase⟩
    · rw [hquiet e rest hev] at hreset
      contradiction
  · exact Host.Outcome.next.inj (hs.symm.trans (step_of_stalled hp hstall hn))

end Sys2Proof.Machine
end

section
/-! Acceptance, reset and init, and the registers as the host reads them (10_state.md R17 to R23, R33,
70_reset_and_hazards.md R112 to R115, R118). -/

namespace Sys2Proof.Machine

open Sys2Proof.Claims

variable {s t : State} {rest : List Event}

/-! ### Acceptance -/

/-- Settles O35: in IDLE a CMD write is an acceptance with an OK response. -/
theorem acceptanceClearsTheOutcome : Obligations.AcceptanceClearsTheOutcome := by
  unfold Obligations.AcceptanceClearsTheOutcome
  intro s w rest hp hev
  rw [step_of_hostWrite hev, State.hostWrite, portLoc_cmd,
    State.writeLoc_cmd_of_idle (s := { s with events := rest }) hp]
  rfl

/-! ### Init and reset -/

/-- EXP as listed repeats its entry 0 at 255 (40_field.md R67). -/
theorem expTable_read_entry {i : Nat} (h : i < 256) :
    expTable.read (entry i) = builtTables.expAt (i % 255) := by
  rcases Nat.lt_or_ge i 255 with hlt | hge
  · rw [Nat.mod_eq_of_lt hlt, Tables.expAt, builtTables]
  · obtain rfl : i = 255 := by omega
    decide +kernel

theorem toNat_entry {i : Nat} (h : i < 256) : (entry i).toNat = i := by
  rw [entry, BitVec.toNat_ofNat, Nat.mod_eq_of_lt h]

/-- Multiplying by the generator moves one entry on in EXP (R64, R66). -/
theorem rpMul_generator (i : Nat) :
    rpMul (builtTables.expAt (i % 255)) Config.generator = builtTables.expAt ((i + 1) % 255) := by
  rw [← rpMul_expAt]
  rfl

/-- The construction of R66 before its step `i`: EXP holds its entries below `i`, and LOG the logarithms
below `i`. -/
structure BuiltUpTo (i : Nat) (e l : Memory) : Prop where
  exp_wf : e.wf = true
  log_wf : l.wf = true
  read_exp : ∀ j : Byte, e.read j = if j.toNat < i then expTable.read j else 0
  read_log : ∀ v : Byte, l.read v = if v ≠ 0 ∧ builtTables.logOf v < i then logTable.read v else 0

/-- A nonzero byte has logarithm `i` exactly when EXP lists it at `i`. -/
theorem logOf_eq_iff {i : Nat} (h : i < 255) {v : Byte} (hv : v ≠ 0) :
    builtTables.logOf v = i ↔ v = builtTables.expAt i := by
  constructor
  · rintro rfl
    exact (builtTables_expAt_logOf hv).symm
  · rintro rfl
    exact builtTables_logOf_expAt h

theorem builtTables_expAt_ne_zero {i : Nat} (h : i < 255) : builtTables.expAt i ≠ 0 := by
  intro hzero
  have hlog : builtTables.logOf 0 = i := hzero ▸ builtTables_logOf_expAt h
  obtain rfl : i = 0 := hlog.symm.trans (by decide +kernel)
  rw [builtTables_expAt_zero] at hzero
  exact absurd hzero (by decide)

/-- Step `i` of R66 writes entry `i` of EXP. -/
theorem BuiltUpTo.read_exp_step {i : Nat} {e l : Memory} (h : BuiltUpTo i e l) (hi : i < 256)
    (j : Byte) : (e.write (entry i) (builtTables.expAt (i % 255))).read j =
      if j.toNat < i + 1 then expTable.read j else 0 := by
  by_cases hj : entry i = j
  · subst hj
    rw [Memory.read_write_same _ _ _ h.exp_wf, toNat_entry hi, if_pos (Nat.lt_succ_self i),
      expTable_read_entry hi]
  · have hne : j.toNat ≠ i := by
      rintro rfl
      exact hj (entry_toNat j)
    rw [Memory.read_write_ne _ _ _ _ hj, h.read_exp j]
    simp only [show j.toNat < i + 1 ↔ j.toNat < i by omega]

/-- Step `i` of R66, up to 254, writes the entry of LOG that is `i`. -/
theorem BuiltUpTo.read_log_step {i : Nat} {e l : Memory} (h : BuiltUpTo i e l) (hi : i < 255)
    (v : Byte) : (l.write (builtTables.expAt i) (entry i)).read v =
      if v ≠ 0 ∧ builtTables.logOf v < i + 1 then logTable.read v else 0 := by
  by_cases hv : builtTables.expAt i = v
  · subst hv
    have hlog := logTable_read_expTable_read (i := entry i) (by rw [toNat_entry] <;> omega)
    rw [Memory.read_write_same _ _ _ h.log_wf, builtTables_logOf_expAt hi,
      if_pos ⟨builtTables_expAt_ne_zero hi, Nat.lt_succ_self i⟩]
    exact hlog.symm
  · rw [Memory.read_write_ne _ _ _ _ hv, h.read_log v]
    have hnext : v ≠ 0 → (builtTables.logOf v < i + 1 ↔ builtTables.logOf v < i) := fun hv0 => by
      have hne : builtTables.logOf v ≠ i := mt (logOf_eq_iff hi hv0).1 (Ne.symm hv)
      omega
    simp +contextual only [and_congr_right_iff.2 hnext]

theorem BuiltUpTo.step {i : Nat} {e l : Memory} (h : BuiltUpTo i e l) (hi : i < 256) :
    BuiltUpTo (i + 1) (e.write (entry i) (builtTables.expAt (i % 255)))
      (if i ≤ 254 then l.write (builtTables.expAt (i % 255)) (entry i) else l) := by
  rcases Nat.lt_or_ge i 255 with hlt | hge
  · rw [if_pos (by omega)]
    refine ⟨Memory.write_wf _ _ _ h.exp_wf, Memory.write_wf _ _ _ h.log_wf, h.read_exp_step hi, ?_⟩
    rw [Nat.mod_eq_of_lt hlt]
    exact h.read_log_step hlt
  · rw [if_neg (by omega)]
    refine ⟨Memory.write_wf _ _ _ h.exp_wf, h.log_wf, h.read_exp_step hi, fun v => ?_⟩
    have hlog := builtTables_logOf_lt v
    rw [h.read_log v]
    simp only [show builtTables.logOf v < i ∧ builtTables.logOf v < i + 1 by omega]

theorem buildLoop_builtUpTo {n i : Nat} {e l : Memory} (hn : i + n ≤ 256) (h : BuiltUpTo i e l) :
    BuiltUpTo (i + n) (buildLoop n i (builtTables.expAt (i % 255)) e l).1
      (buildLoop n i (builtTables.expAt (i % 255)) e l).2 := by
  induction n generalizing i e l with
  | zero => exact h
  | succ n ih =>
    rw [buildLoop, rpMul_generator, Nat.add_comm n, ← Nat.add_assoc]
    exact ih (by omega) (h.step (by omega))

/-- The construction of R66 fills the tables of R67 and R68. -/
theorem buildTables_eq : buildTables = (expTable, logTable) := by
  have hempty : BuiltUpTo 0 Memory.zero Memory.zero := ⟨rfl, rfl, by simp, by simp⟩
  have hbuilt := buildLoop_builtUpTo (n := 256) (Nat.le_refl _) hempty
  rw [Nat.zero_mod, builtTables_expAt_zero] at hbuilt
  unfold buildTables
  generalize buildLoop 256 0 1 Memory.zero Memory.zero = t at hbuilt ⊢
  obtain ⟨e, l⟩ := t
  obtain ⟨hewf, hlwf, he, hl⟩ := hbuilt
  have hexp : e = expTable :=
    Memory.eq_of_read_eq _ _ hewf expTable_wf fun j => (he j).trans (if_pos j.isLt)
  have hlog : l.write 0 0 = logTable := by
    refine Memory.eq_of_read_eq _ _ (Memory.write_wf _ _ _ hlwf) logTable_wf fun v => ?_
    by_cases hv : v = 0
    · subst hv
      rw [Memory.read_write_same _ _ _ hlwf]
      decide +kernel
    · have hlt : builtTables.logOf v < 0 + 256 := (builtTables_logOf_lt v).trans (by decide)
      rw [Memory.read_write_ne _ _ _ _ (Ne.symm hv), hl v, if_pos ⟨hv, hlt⟩]
  exact Prod.ext hexp hlog

/-- The end of init clears the data memories. -/
theorem State.initComplete_cleared (s : State) (i : Byte) :
    s.initComplete.coef.read i = 0 ∧ s.initComplete.xs.read i = 0 ∧
      s.initComplete.ys.read i = 0 ∧ s.initComplete.sub.read i = 0 :=
  ⟨rfl, rfl, rfl, rfl⟩

/-- Settles O37: the engine's turn in INIT is the end of init, and the listed tables are the built
ones. -/
theorem initBuildsTablesAndClears : Obligations.InitBuildsTablesAndClears := by
  unfold Obligations.InitBuildsTablesAndClears
  intro s rest hp hn
  exact ⟨_, step_of_init hp hn, buildTables_eq.symm, State.initComplete_cleared _, rfl, rfl, rfl, rfl,
    rfl, rfl, rfl, rfl⟩

/-- Settles O38: both resets are the reset of R112, after which the engine's turn is the end of init. -/
theorem resetsAbandonTheCommand : Obligations.ResetsAbandonTheCommand := by
  unfold Obligations.ResetsAbandonTheCommand
  refine fun s v rest hv => ⟨fun hev => step_of_hardwareReset hev, fun hev => ?_, fun more hn => ?_⟩
  · rw [step_of_ctrl_write hev, if_pos hv]
  · exact ⟨_, step_of_init rfl hn, rfl, rfl, ⟨rfl, rfl⟩, State.initComplete_cleared _⟩

/-- Settles O39: the registers of the reset state, and of the state that the end of init makes of it. -/
theorem resetValuesBeforeAndAfterInit : Obligations.ResetValuesBeforeAndAfterInit := by
  have hn : State.reset.engineNext [] := .inr ⟨rfl, rfl⟩
  exact ⟨rfl, by decide, by decide, by decide, rfl, _, step_of_init rfl hn, rfl, by decide, by decide,
    by decide, rfl, ⟨rfl, rfl⟩, State.initComplete_cleared _⟩

/-! ### The window in the host's system map (20_memory.md R37) -/

/-- Settles O40: in the window the offset is the distance from BASE_ADDR, which 12 bits hold. -/
theorem systemAddressesMapToOffsets : Obligations.SystemAddressesMapToOffsets := by
  unfold Obligations.SystemAddressesMapToOffsets
  refine ⟨Nat.mul_mod_right _ _, fun addr off => ?_⟩
  have hoff : off.toNat < 0x1000 := off.isLt
  unfold hostOffset
  split_ifs with hin
  · rw [Option.some.injEq, ← BitVec.toNat_inj, BitVec.toNat_ofNat]
    omega
  · simp only [false_iff]
    omega

/-! ### Reads (20_memory.md R38) -/

/-- What a read answers while BUSY hangs on the registers and the draw alone. -/
theorem State.readResponse_of_busy (hbusy : s.busy = true) (c x y b e l : Memory) (off : Offset)
    (draw : Word) :
    { s with coef := c, xs := x, ys := y, sub := b, expT := e, logT := l }.readResponse off draw =
      s.readResponse off draw := by
  have hbusy' : { s with coef := c, xs := x, ys := y, sub := b, expT := e, logT := l }.busy = true :=
    hbusy
  unfold State.readResponse
  rw [hbusy, hbusy']
  cases portLoc off <;> rfl

/-- Settles O46: neither answer reads a memory. -/
theorem busyReadsHideTheMemories : Obligations.BusyReadsHideTheMemories := by
  unfold Obligations.BusyReadsHideTheMemories
  intro s c x y b e l off draw rest hbusy hev
  refine ⟨_, _, step_of_hostRead hev, step_of_hostRead hev, ?_⟩
  exact congrArg some
    (State.readResponse_of_busy (s := { s with events := rest }) hbusy c x y b e l off draw).symm

/-! ### The registers, bit by bit -/

theorem State.ctrlWord_getLsbD (s : State) (n : Nat) :
    s.ctrlWord.getLsbD n = (n == 0 && s.ie) := by
  show BitVec.getLsbD (w := 31 + 1) ((0 : BitVec 31) ++ BitVec.ofBool s.ie) n = _
  rw [BitVec.getLsbD_append, BitVec.getLsbD_ofBool]
  cases n <;> simp

/-- STATUS packs its fields where R19 places them; checked for every value of the fields. -/
theorem State.statusWord_fields (s : State) :
    s.statusWord.getLsbD 0 = s.ready ∧ s.statusWord.getLsbD 1 = s.busy ∧
    s.statusWord.getLsbD 2 = s.done ∧ s.statusWord.getLsbD 3 = s.err ∧
    s.statusWord.getLsbD 4 = s.ovr ∧ s.statusWord.extractLsb' 5 3 = 0 ∧
    s.statusWord.extractLsb' 8 4 = s.errcode.code ∧ s.statusWord.extractLsb' 12 20 = 0 := by
  unfold State.statusWord
  generalize s.ready = ready, s.busy = busy, s.done = done, s.err = err, s.ovr = ovr,
    s.errcode.code = code
  revert ready busy done err ovr code
  decide +kernel

theorem State.resultWord_fields (s : State) :
    s.resultWord.extractLsb' 0 8 = s.ry ∧ s.resultWord.extractLsb' 8 8 = s.rx ∧
    s.resultWord.extractLsb' 16 16 = 0 := by
  unfold State.resultWord
  refine ⟨?_, ?_, ?_⟩
  · rw [BitVec.extractLsb'_append_eq_of_add_le (by decide), BitVec.extractLsb'_eq_self]
  · rw [BitVec.extractLsb'_append_eq_of_le (by decide),
      BitVec.extractLsb'_append_eq_of_add_le (by decide), BitVec.extractLsb'_eq_self]
  · rw [BitVec.extractLsb'_append_eq_of_le (by decide),
      BitVec.extractLsb'_append_eq_of_le (by decide), BitVec.extractLsb'_eq_self]

theorem State.ready_iff (s : State) : s.ready = true ↔ s.phase = .idle := by
  unfold State.ready
  cases s.phase <;> simp

theorem State.err_iff (s : State) : s.err = true ↔ s.errcode ≠ .ok := by
  unfold State.err
  cases s.errcode <;> decide

/-- STATUS as read, in terms of the phase and the outcome (R19 to R21). -/
theorem State.statusWord_shows (s : State) :
    (s.statusWord.getLsbD 0 = true ↔ s.phase = .idle) ∧
    s.statusWord.getLsbD 1 = !s.statusWord.getLsbD 0 ∧ s.statusWord.getLsbD 2 = s.done ∧
    (s.statusWord.getLsbD 3 = true ↔ s.errcode ≠ .ok) ∧ s.statusWord.getLsbD 4 = s.ovr ∧
    s.statusWord.extractLsb' 5 3 = 0 ∧ s.statusWord.extractLsb' 8 4 = s.errcode.code ∧
    s.statusWord.extractLsb' 12 20 = 0 := by
  obtain ⟨hready, hbusy, hdone, herr, hovr, hpacked⟩ := s.statusWord_fields
  rw [hready, hbusy, hdone, herr, hovr]
  exact ⟨s.ready_iff, s.busy_eq_not_ready, rfl, s.err_iff, rfl, hpacked⟩

/-- Settles O44: each of the five offsets names its register, whose word is packed field by field. -/
theorem registerReadsShowTheState : Obligations.RegisterReadsShowTheState := by
  unfold Obligations.RegisterReadsShowTheState
  intro s draw rest off hev hoff
  rw [step_of_hostRead hev, State.hostRead, State.readResponse]
  rcases hoff with rfl | rfl | rfl | rfl | rfl
  · rw [show portLoc 0x000 = .id by decide]
    refine ⟨_, rfl, ?_⟩
    simp [Config.idValue]
  · rw [portLoc_ctrl]
    refine ⟨_, rfl, ?_⟩
    simp [State.ctrlWord_getLsbD]
  · rw [portLoc_status]
    exact ⟨_, rfl, fun h => absurd h (by decide), fun h => absurd h (by decide),
      fun _ => { s with events := rest }.statusWord_shows, fun h => absurd h (by decide),
      fun h => absurd h (by decide)⟩
  · rw [portLoc_cmd]
    refine ⟨_, rfl, ?_⟩
    simp
  · rw [show portLoc 0x010 = .result by decide]
    exact ⟨_, rfl, fun h => absurd h (by decide), fun h => absurd h (by decide),
      fun h => absurd h (by decide), fun h => absurd h (by decide),
      fun _ => { s with events := rest }.resultWord_fields⟩

/-! ### STATUS after a completion (60_exceptions.md R98) -/

/-- Settles O21: STATUS is computed from the code and OVR alone, the other flags being known. -/
theorem statusWordAfterCompletion : Obligations.StatusWordAfterCompletion := by
  unfold Obligations.StatusWordAfterCompletion
  refine ⟨by decide, fun s e => ?_⟩
  have hstatus : (finished s e).statusWord =
      (finished { State.reset with ovr := s.ovr } e).statusWord := rfl
  rw [hstatus]
  cases e <;> cases s.ovr <;> decide

end Sys2Proof.Machine
end

section
/-! The bytes with addition R70 and the peasant product R65 are a field; the field commands compute in it
(40_field.md R70 to R74, R78 to R82). -/

namespace Sys2Proof.Machine

open Sys2Proof.Claims

/-! ### The product is linear in its first factor -/

/-- The loop of rp_mul adds up: it is linear in the sum so far and the doubled factor. -/
theorem rpLoop_xor (n : Nat) (p p' a a' bb : Byte) :
    rpLoop n (p ^^^ p') (a ^^^ a') bb = rpLoop n p a bb ^^^ rpLoop n p' a' bb := by
  induction n generalizing p p' a a' bb with
  | zero => rfl
  | succ n ih =>
    by_cases hb : bb = 0
    · simp only [rpLoop, hb, if_true]
    · simp only [rpLoop, hb, if_false]
      rw [← ih, gfDouble_xor]
      split_ifs
      · ac_rfl
      · rfl

theorem rpMul_xor_left (a b c : Byte) : rpMul (a ^^^ b) c = rpMul a c ^^^ rpMul b c :=
  rpLoop_xor 8 0 0 a b c

/-! ### Products through the tables -/

/-- The product of nonzero bytes is EXP at the sum of their logarithms. -/
theorem rpMul_of_ne_zero {a b : Byte} (ha : a ≠ 0) (hb : b ≠ 0) :
    rpMul a b = builtTables.expAt ((builtTables.logOf a + builtTables.logOf b) % 255) := by
  rw [← rpMul_expAt, builtTables_expAt_logOf_mod ha, builtTables_expAt_logOf_mod hb]

theorem builtTables_expAt_mod_ne_zero (i : Nat) : builtTables.expAt (i % 255) ≠ 0 :=
  builtTables_expAt_ne_zero (Nat.mod_lt i (by decide))

theorem rpMul_eq_zero_iff (a b : Byte) : rpMul a b = 0 ↔ a = 0 ∨ b = 0 := by
  constructor
  · intro h
    by_contra hne
    obtain ⟨ha, hb⟩ := not_or.1 hne
    exact builtTables_expAt_mod_ne_zero _ ((rpMul_of_ne_zero ha hb).symm.trans h)
  · rintro (rfl | rfl)
    · exact rpMul_zero_left b
    · exact rpMul_zero_right a

theorem rpMul_comm (a b : Byte) : rpMul a b = rpMul b a := by
  by_cases ha : a = 0
  · rw [ha, rpMul_zero_left, rpMul_zero_right]
  by_cases hb : b = 0
  · rw [hb, rpMul_zero_left, rpMul_zero_right]
  rw [rpMul_of_ne_zero ha hb, rpMul_of_ne_zero hb ha, Nat.add_comm]

theorem rpMul_xor_right (a b c : Byte) : rpMul a (b ^^^ c) = rpMul a b ^^^ rpMul a c := by
  rw [rpMul_comm, rpMul_xor_left, rpMul_comm b, rpMul_comm c]

theorem rpMul_one_right (a : Byte) : rpMul a 1 = a := by
  rw [rpMul_comm, rpMul_one_left]

/-- Associativity: three nonzero bytes are EXP entries, whose indexes add. -/
theorem rpMul_assoc (a b c : Byte) : rpMul (rpMul a b) c = rpMul a (rpMul b c) := by
  by_cases ha : a = 0
  · simp only [ha, rpMul_zero_left]
  by_cases hb : b = 0
  · simp only [hb, rpMul_zero_left, rpMul_zero_right]
  by_cases hc : c = 0
  · simp only [hc, rpMul_zero_right]
  rw [← builtTables_expAt_logOf_mod ha, ← builtTables_expAt_logOf_mod hb,
    ← builtTables_expAt_logOf_mod hc]
  simp only [rpMul_expAt, Nat.add_assoc]

theorem exists_rpMul_eq_one {b : Byte} (hb : b ≠ 0) : ∃ q, rpMul b q = 1 := by
  obtain ⟨q, -, hq⟩ := exists_gfDiv_builtTables 1 hb
  exact ⟨q, hq⟩

/-- A nonzero factor cancels. -/
theorem rpMul_right_cancel {a b c : Byte} (hc : c ≠ 0) (h : rpMul a c = rpMul b c) : a = b := by
  obtain ⟨q, hq⟩ := exists_rpMul_eq_one hc
  rw [← rpMul_one_right a, ← hq, ← rpMul_assoc, h, rpMul_assoc, hq, rpMul_one_right]

/-- The table quotient is the one byte whose product with the divisor is the dividend (R72). -/
theorem gfDiv_builtTables_eq_ok {a b q : Byte} (hb : b ≠ 0) (h : rpMul q b = a) :
    gfDiv builtTables a b = .ok q := by
  obtain ⟨q', hq', hprod⟩ := exists_gfDiv_builtTables a hb
  rw [hq', rpMul_right_cancel hb ((rpMul_comm q' b).trans (hprod.trans h.symm))]

/-! ### MUL and DIV -/

/-- Settles O10: over the built tables the product is the peasant product. -/
theorem mulGivesThePeasantProduct : Obligations.MulGivesThePeasantProduct := by
  unfold Obligations.MulGivesThePeasantProduct
  exact fun s a b hbuilt => exec_mul_of_built hbuilt a b

/-- Settles O11: a quotient exists, and a nonzero divisor cancels, so it is the only one. -/
theorem divGivesTheOnlyQuotient : Obligations.DivGivesTheOnlyQuotient := by
  unfold Obligations.DivGivesTheOnlyQuotient
  refine fun s a b hbuilt => ⟨fun hb => ?_, ?_⟩
  · obtain ⟨q, hexec, hprod⟩ := exec_div_of_built hbuilt a hb
    rw [rpMul_comm] at hprod
    exact ⟨q, hexec, hprod, fun q' hq' => rpMul_right_cancel hb (hq'.trans hprod.symm)⟩
  · rintro rfl
    exact exec_div_zero a s

/-- Settles O16: the field laws, carried from the peasant product to the table product. -/
theorem arithmeticUnitIsAField : Obligations.ArithmeticUnitIsAField := by
  unfold Obligations.ArithmeticUnitIsAField
  change _ ∧ _ ∧ _
  rw [show (⟨expTable, logTable⟩ : Tables) = builtTables from rfl]
  simp only [gfMul_builtTables]
  refine ⟨fun a b c => ⟨BitVec.xor_comm a b, BitVec.xor_assoc a b c, BitVec.xor_zero, BitVec.xor_self,
    rfl, rpMul_comm a b, rpMul_assoc a b c, rpMul_one_right a, rpMul_xor_right a b c,
    rpMul_eq_zero_iff a b⟩, fun a b hb => ⟨?_, ?_, ?_⟩, fun a => rfl⟩
  · exact gfDiv_builtTables_eq_ok hb rfl
  · exact gfDiv_builtTables_eq_ok hb (rpMul_one_left b)
  · exact gfDiv_builtTables_eq_ok hb (rpMul_zero_left b)

/-! ### Powers (R73) -/

theorem power_zero (a : Byte) : power a 0 = 1 := rfl

theorem power_succ (a : Byte) (e : Nat) : power a (e + 1) = rpMul (power a e) a :=
  Function.iterate_succ_apply' _ _ _

/-- The table power is the repeated product. -/
theorem gfPow_builtTables (a : Byte) (e : Nat) : gfPow builtTables a e = power a e := by
  induction e with
  | zero => rfl
  | succ e ih => rw [gfPow, ih, gfMul_builtTables, power_succ]

theorem power_zero_left {e : Nat} (he : e ≠ 0) : power 0 e = 0 := by
  obtain ⟨e, rfl⟩ := Nat.exists_eq_succ_of_ne_zero he
  rw [power_succ, rpMul_zero_right]

/-- The power of a nonzero byte multiplies its logarithm. -/
theorem power_of_ne_zero {a : Byte} (ha : a ≠ 0) (e : Nat) :
    power a e = builtTables.expAt (builtTables.logOf a * e % 255) := by
  induction e with
  | zero => rw [power_zero, Nat.mul_zero, Nat.zero_mod, builtTables_expAt_zero]
  | succ e ih =>
    rw [power_succ, ih, Nat.mul_succ, ← rpMul_expAt, builtTables_expAt_logOf_mod ha]

theorem exec_pow_of_built {s : State} (h : s.tablesBuilt) (a e : Byte) :
    exec (.pow a e) s = .next (withResult s 0 (power a e.toNat)) := by
  rw [← gfPow_builtTables, ← State.tables_eq_of_built h]
  rfl

/-- Settles O12: over the built tables the power is the repeated peasant product. -/
theorem powIsRepeatedMultiplication : Obligations.PowIsRepeatedMultiplication := by
  unfold Obligations.PowIsRepeatedMultiplication
  exact fun s a e hbuilt => exec_pow_of_built hbuilt a e

/-- Settles O13: a zero exponent, a zero base, and otherwise the multiplied logarithm, which at exponent
255 is a multiple of 255. -/
theorem powClosedForms : Obligations.PowClosedForms := by
  unfold Obligations.PowClosedForms
  refine ⟨fun s a e hbuilt => ?_, fun a ha => ?_⟩
  · rw [exec_pow_of_built hbuilt]
    split_ifs with he ha
    · rw [he]
      rfl
    · rw [ha, power_zero_left fun h => he (BitVec.eq_of_toNat_eq h)]
    · rw [power_of_ne_zero ha]
      rfl
  · have h255 : power a 255 = 1 := by
      rw [power_of_ne_zero ha, Nat.mul_mod_left, builtTables_expAt_zero]
    exact ⟨h255, (power_succ a 254).symm.trans h255⟩

/-! ### EXP and LOG (R81, R82) -/

/-- The powers of the generator are the entries of EXP (R66, R67). -/
theorem power_generator (e : Nat) : power 0x02 e = builtTables.expAt (e % 255) := by
  have hlog : builtTables.logOf 0x02 = 1 := by decide +kernel
  rw [power_of_ne_zero (by decide), hlog, Nat.one_mul]

/-- Settles O14: EXP lists the powers of the generator, and LOG inverts it below 255. -/
theorem expAndLogReadTheirTables : Obligations.ExpAndLogReadTheirTables := by
  unfold Obligations.ExpAndLogReadTheirTables
  rintro s v ⟨hexp, hlog⟩
  refine ⟨?_, logTable.read v, ?_, fun hv => ⟨builtTables_logOf_lt v, ?_, fun e he hpow => ?_⟩, ?_⟩
  · rw [power_generator, ← expTable_read_entry v.isLt, entry_toNat, ← hexp]
    rfl
  · rw [← hlog]
    rfl
  · rw [power_generator]
    exact builtTables_expAt_logOf_mod hv
  · rw [power_generator, Nat.mod_eq_of_lt he] at hpow
    exact ((logOf_eq_iff he hv).2 hpow.symm).symm
  · rintro rfl
    decide +kernel

/-- Settles O9: NOP completes with nothing written, ADD and SUB with the XOR. -/
theorem nopAddSubComplete : Obligations.NopAddSubComplete := by
  unfold Obligations.NopAddSubComplete
  exact fun s a b => ⟨rfl, exec_add a b s, exec_sub a b s⟩

/-! ### The field (R74) -/

/-- The bytes under another name, so that the arithmetic modulo 256 of `BitVec` stays out of the way. -/
def GF : Type := Byte

/-- The inverse of a byte, and 0 for 0. -/
noncomputable def gfInv (a : Byte) : Byte :=
  if h : a = 0 then 0 else (exists_rpMul_eq_one h).choose

theorem gfInv_zero : gfInv 0 = 0 := dif_pos rfl

theorem rpMul_gfInv {a : Byte} (h : a ≠ 0) : rpMul a (gfInv a) = 1 := by
  rw [gfInv, dif_neg h]
  exact (exists_rpMul_eq_one h).choose_spec

/-- The bytes as a field, with XOR for addition and the peasant product. -/
@[reducible] noncomputable def byteField : Field GF :=
  letI : Add GF := ⟨fun (a b : Byte) => a ^^^ b⟩
  letI : Mul GF := ⟨rpMul⟩
  letI : Neg GF := ⟨id⟩
  letI : Inv GF := ⟨gfInv⟩
  letI : Zero GF := ⟨(0x00 : Byte)⟩
  letI : One GF := ⟨(0x01 : Byte)⟩
  Field.ofMinimalAxioms GF BitVec.xor_assoc (fun _ => BitVec.zero_xor) (fun _ => BitVec.xor_self)
    rpMul_assoc rpMul_comm rpMul_one_left (fun _ => rpMul_gfInv) gfInv_zero rpMul_xor_right
    ⟨(0x00 : Byte), (0x01 : Byte), show (0x00 : Byte) ≠ 0x01 by decide⟩

/-- A field whose elements the bytes name, addition being XOR and multiplication the peasant product. -/
structure NamesField {F : Type} [Field F] (φ : Byte ≃ F) : Prop where
  map_xor : ∀ a b, φ (a ^^^ b) = φ a + φ b
  map_rpMul : ∀ a b, φ (rpMul a b) = φ a * φ b

theorem exists_namesField : ∃ (F : Type) (_ : Field F) (φ : Byte ≃ F), NamesField φ :=
  ⟨GF, byteField, Equiv.refl Byte,
    @NamesField.mk GF byteField (Equiv.refl Byte) (fun _ _ => rfl) (fun _ _ => rfl)⟩

end Sys2Proof.Machine
end

section
/-! Polynomials over the bytes: the power sum and Horner's scheme are the value of a polynomial of the
field (41_polynomial.md R83). -/

namespace Sys2Proof.Machine

open Sys2Proof.Claims

/-! ### The naming of the field -/

section Naming

variable {F : Type} [Field F] {φ : Byte ≃ F} (h : NamesField φ)
include h

theorem NamesField.map_zero : φ 0 = 0 := by
  have hsum := h.map_xor 0 0
  rw [BitVec.xor_self] at hsum
  exact left_eq_add.1 hsum

theorem NamesField.map_one : φ 1 = 1 := by
  have hprod := h.map_rpMul 1 1
  have hne : φ 1 ≠ 0 := fun hzero => by
    have := φ.injective (hzero.trans h.map_zero.symm)
    contradiction
  rwa [rpMul_one_left, left_eq_mul₀ hne] at hprod

/-- Subtraction is XOR too. -/
theorem NamesField.map_xor_eq_sub (a b : Byte) : φ (a ^^^ b) = φ a - φ b := by
  rw [eq_sub_iff_add_eq, ← h.map_xor, BitVec.xor_assoc, BitVec.xor_self, BitVec.xor_zero]

theorem NamesField.map_power (a : Byte) (e : Nat) : φ (power a e) = φ a ^ e := by
  induction e with
  | zero => rw [power_zero, h.map_one, pow_zero]
  | succ e ih => rw [power_succ, h.map_rpMul, ih, pow_succ]

end Naming

/-! ### Horner's scheme -/

theorem horner_zero (c : Nat → Byte) (x : Byte) : horner c 0 x = 0 := rfl

theorem horner_succ (c : Nat → Byte) (k : Nat) (x : Byte) :
    horner c (k + 1) x = c 0 ^^^ rpMul x (horner (fun j => c (j + 1)) k x) := by
  simp only [horner, List.range_succ_eq_map, List.foldr_cons, List.foldr_map]

theorem horner_congr {c d : Nat → Byte} {k : Nat} (hcd : ∀ j, j < k → c j = d j) (x : Byte) :
    horner c k x = horner d k x := by
  induction k generalizing c d with
  | zero => rfl
  | succ k ih =>
    rw [horner_succ, horner_succ, hcd 0 (Nat.succ_pos k),
      ih fun j hj => hcd (j + 1) (Nat.succ_lt_succ hj)]

/-- At 0 a polynomial has its constant term (R83). -/
theorem horner_at_zero (c : Nat → Byte) {k : Nat} (hk : k ≠ 0) : horner c k 0 = c 0 := by
  obtain ⟨k, rfl⟩ := Nat.exists_eq_succ_of_ne_zero hk
  rw [horner_succ, rpMul_zero_left]
  exact BitVec.xor_zero

/-- Horner's scheme is linear in the coefficients. -/
theorem horner_xor (c d : Nat → Byte) (k : Nat) (x : Byte) :
    horner (fun j => c j ^^^ d j) k x = horner c k x ^^^ horner d k x := by
  induction k generalizing c d with
  | zero => exact BitVec.xor_self.symm
  | succ k ih =>
    simp only [horner_succ, ih, rpMul_xor_right]
    ac_rfl

/-- Horner's scheme gives the polynomial's value in the field. -/
theorem NamesField.map_horner {F : Type} [Field F] {φ : Byte ≃ F} (h : NamesField φ)
    (c : Nat → Byte) (k : Nat) (x : Byte) :
    φ (horner c k x) = ∑ j ∈ Finset.range k, φ (c j) * φ x ^ j := by
  induction k generalizing c with
  | zero => rw [horner_zero, h.map_zero, Finset.range_zero, Finset.sum_empty]
  | succ k ih =>
    rw [horner_succ, h.map_xor, h.map_rpMul, ih, Finset.sum_range_succ', pow_zero, mul_one, add_comm,
      Finset.mul_sum]
    simp only [pow_succ', mul_left_comm]

/-! ### The power sum (R83) -/

/-- The power sum over the built tables is the value by Horner's scheme: both are the value in the
field. -/
theorem polyEval_builtTables (coef : Memory) (x : Byte) (k : Nat) :
    polyEval builtTables coef x k = horner (item coef) k x := by
  obtain ⟨F, _, φ, h⟩ := exists_namesField
  refine φ.injective ?_
  rw [h.map_horner]
  induction k with
  | zero => exact h.map_zero
  | succ k ih =>
    rw [polyEval, gfAdd, h.map_xor, ih, gfMul_builtTables, h.map_rpMul, gfPow_builtTables, h.map_power,
      Finset.sum_range_succ]
    rfl

/-- The power sum reads only the first `k` entries, whatever the tables hold. -/
theorem polyEval_congr (t : Tables) {coef coef' : Memory} {k : Nat}
    (hcoef : ∀ j, j < k → coef.read (entry j) = coef'.read (entry j)) (x : Byte) :
    polyEval t coef x k = polyEval t coef' x k := by
  induction k with
  | zero => rfl
  | succ k ih =>
    rw [polyEval, polyEval, hcoef k (Nat.lt_succ_self k),
      ih fun j hj => hcoef j (Nat.lt_succ_of_lt hj)]

end Sys2Proof.Machine
end

section
/-! The completions that evaluate and store: PEVAL, GENPOLY, EVSH, GENSH, GENSUB and COMBINE
(41_polynomial.md R87 to R90, 43_renewal.md R93, R94). -/

namespace Sys2Proof.Machine

open Sys2Proof.Claims

variable {s : State} {k n m : Byte}

/-! ### Runs of writes from entry 0 -/

theorem Memory.read_writeSeq_zero {mem : Memory} (hwf : mem.wf = true) {vs : List Byte}
    (hlen : vs.length ≤ 256) (i : Byte) :
    (mem.writeSeq 0 vs).read i = if i.toNat < vs.length then vs.getD i.toNat 0 else mem.read i := by
  rw [Memory.read_writeSeq mem 0 vs i hwf (by omega)]
  simp only [Nat.zero_le, true_and, Nat.zero_add, Nat.sub_zero]

/-- A run of `n` bytes given by their index. -/
theorem Memory.read_writeSeq_range {mem : Memory} (hwf : mem.wf = true) (f : Nat → Byte) (n i : Byte) :
    (mem.writeSeq 0 ((List.range n.toNat).map f)).read i =
      if i.toNat < n.toNat then f i.toNat else mem.read i := by
  have hlen : ((List.range n.toNat).map f).length = n.toNat := by simp
  rw [Memory.read_writeSeq_zero hwf (by rw [hlen]; exact n.isLt.le), hlen]
  split_ifs with hi
  · simp [hi]
  · rfl

/-! ### Drawn polynomials (R84, R87) -/

theorem drawCoeffs_of_enough {bs : List Byte} {n : Nat} (h : n ≤ (useful bs).length) :
    drawCoeffs n bs = some ((useful bs).take n) :=
  (drawCoeffs_eq n bs).trans (if_pos h)

/-- The coefficients written are the first `k` of the drawn polynomial. -/
theorem getD_drawn (c0 : Byte) (bs : List Byte) {j : Nat} (hj : j < k.toNat) :
    (c0 :: (useful bs).take (k.toNat - 1)).getD j 0 = drawn c0 bs j := by
  rw [← List.take_succ_cons, drawn, List.getD_eq_getElem?_getD, List.getElem?_take_of_lt (by omega),
    List.getD_eq_getElem?_getD]

theorem read_drawnPolynomial {coef : Memory} (hwf : coef.wf = true) (hk : k ≠ 0) (c0 : Byte)
    {bs : List Byte} (hdraws : k.toNat - 1 ≤ (useful bs).length) (i : Byte) :
    (drawnPolynomial coef c0 ((useful bs).take (k.toNat - 1))).read i =
      if i.toNat < k.toNat then drawn c0 bs i.toNat else coef.read i := by
  have hpos : 0 < k.toNat := count_pos k hk
  have hlen : (c0 :: (useful bs).take (k.toNat - 1)).length = k.toNat := by
    rw [List.length_cons, List.length_take]
    omega
  rw [drawnPolynomial, Memory.read_writeSeq_zero hwf (by rw [hlen]; exact k.isLt.le), hlen]
  split_ifs with hi
  · exact getD_drawn c0 bs hi
  · rfl

/-- The entries below `k`, by number. -/
theorem item_drawnPolynomial {coef : Memory} (hwf : coef.wf = true) (hk : k ≠ 0) (c0 : Byte)
    {bs : List Byte} (hdraws : k.toNat - 1 ≤ (useful bs).length) {j : Nat} (hj : j < k.toNat) :
    item (drawnPolynomial coef c0 ((useful bs).take (k.toNat - 1))) j = drawn c0 bs j := by
  have hentry : (entry j).toNat = j := toNat_entry (hj.trans k.isLt)
  have hread := read_drawnPolynomial hwf hk c0 hdraws (entry j)
  rwa [hentry, if_pos hj] at hread

/-! ### The completions -/

theorem exec_genpoly_of_enough (hk : k ≠ 0) (hdraws : k.toNat - 1 ≤ (useful s.taken).length)
    (secret : Byte) :
    exec (.genpoly k secret) s = .next (finished { s with
      coef := drawnPolynomial s.coef secret ((useful s.taken).take (k.toNat - 1)) } .ok) := by
  simp only [exec, execGenpoly, (checkK_none_iff k).2 hk, count, drawCoeffs_of_enough hdraws]
  rfl

/-- Settles O22: the operand check passes and the draws are at hand, so the coefficients are written. -/
theorem genpolyStoresSecretAndDraws : Obligations.GenpolyStoresSecretAndDraws := by
  unfold Obligations.GenpolyStoresSecretAndDraws
  intro s k secret hwf hk hdraws
  exact ⟨_, exec_genpoly_of_enough hk hdraws secret, Memory.writeSeq_wf _ _ _ hwf,
    read_drawnPolynomial hwf hk secret hdraws⟩

/-- Settles O23: over the built tables the power sum is the value by Horner's scheme. -/
theorem pevalGivesThePolynomialValue : Obligations.PevalGivesThePolynomialValue := by
  unfold Obligations.PevalGivesThePolynomialValue
  refine fun s k x hbuilt hk => ⟨?_, horner_at_zero _ (count_pos k hk).ne'⟩
  simp only [exec, execPeval, (checkK_none_iff k).2 hk, State.tables_eq_of_built hbuilt,
    polyEval_builtTables]
  rfl

/-- The abscissas of the shares, by index. -/
theorem abscissa_toNat (i : Byte) : BitVec.ofNat 8 (i.toNat + 1) = i + 1 := by
  rw [BitVec.ofNat_add, BitVec.ofNat_toNat, BitVec.setWidth_eq]
  rfl

/-- The entries that share generation writes: XS[i] = i + 1 and YS[i] the value there (R89, R90). -/
theorem read_writeShares (hwf : s.memoriesWf = true) (hbuilt : s.tablesBuilt) (coef : Memory)
    (k n i : Byte) :
    (s.writeShares coef k.toNat n.toNat).xs.read i =
      (if i.toNat < n.toNat then i + 1 else s.xs.read i) ∧
    (s.writeShares coef k.toNat n.toNat).ys.read i =
      (if i.toNat < n.toNat then horner (item coef) k.toNat (i + 1) else s.ys.read i) := by
  have hxs : s.xs.wf = true := State.mem_wf hwf .xs
  have hys : s.ys.wf = true := State.mem_wf hwf .ys
  rw [State.writeShares_xs, State.writeShares_ys, abscissas, List.map_map,
    Memory.read_writeSeq_range hxs, Memory.read_writeSeq_range hys, Function.comp_apply,
    abscissa_toNat, State.tables_eq_of_built hbuilt, polyEval_builtTables]
  exact ⟨rfl, rfl⟩

theorem exec_evsh_of_le (hk : k ≠ 0) (hn : k.toNat ≤ n.toNat) :
    exec (.evsh k n) s = .next (finished (s.writeShares s.coef k.toNat n.toNat) .ok) := by
  simp only [exec, execEvsh, (checkKn_none_iff k n).2 ⟨hk, hn⟩]
  rfl

/-- Settles O24: the shares of the COEF that stands. -/
theorem evshWritesTheShares : Obligations.EvshWritesTheShares := by
  unfold Obligations.EvshWritesTheShares
  intro s k n hwf hbuilt hk hn
  exact ⟨_, _, exec_evsh_of_le hk hn, read_writeShares hwf hbuilt s.coef k n⟩

theorem exec_gensh_of_le (hk : k ≠ 0) (hn : k.toNat ≤ n.toNat)
    (hdraws : k.toNat - 1 ≤ (useful s.taken).length) (secret : Byte) :
    exec (.gensh k n secret) s = .next (finished { s.writeShares
      (drawnPolynomial s.coef secret ((useful s.taken).take (k.toNat - 1))) k.toNat n.toNat with
      coef := Memory.zero } .ok) := by
  simp only [exec, execGensh, (checkKn_none_iff k n).2 ⟨hk, hn⟩, count, drawCoeffs_of_enough hdraws]
  rfl

/-- Settles O25: the shares of the polynomial drawn, whose coefficients are written before they are
evaluated and cleared after. -/
theorem genshSharesTheSecretAndClears : Obligations.GenshSharesTheSecretAndClears := by
  unfold Obligations.GenshSharesTheSecretAndClears
  intro s k n secret hwf hbuilt hk hn hdraws
  refine ⟨_, _, _, exec_gensh_of_le hk hn hdraws secret, fun i => ⟨Memory.read_zero i, ?_⟩⟩
  have hcoef : s.coef.wf = true := State.mem_wf hwf .coef
  rw [← horner_congr fun j => item_drawnPolynomial hcoef hk secret hdraws]
  exact read_writeShares hwf hbuilt _ k n i

/-- Settles O26: the coefficients evaluated are the ones just written, whatever stood there. -/
theorem genshIgnoresOldCoefficients : Obligations.GenshIgnoresOldCoefficients := by
  unfold Obligations.GenshIgnoresOldCoefficients
  intro s c k n secret hwf hc hk hn hdraws
  have hcoef : s.coef.wf = true := State.mem_wf hwf .coef
  have heval := polyEval_congr s.tables fun j hj =>
    (item_drawnPolynomial hc hk secret hdraws hj).trans
      (item_drawnPolynomial hcoef hk secret hdraws hj).symm
  rw [exec_gensh_of_le hk hn hdraws, exec_gensh_of_le (s := { s with coef := c }) hk hn hdraws]
  simp only [State.writeShares, show { s with coef := c }.tables = s.tables from rfl, heval]

theorem exec_gensub_of_le (hk : k ≠ 0) (hm : k.toNat ≤ m.toNat)
    (hdraws : k.toNat - 1 ≤ (useful s.taken).length) :
    exec (.gensub k m) s = .next (finished { s with
      sub := s.sub.writeSeq 0 (subshares s.tables
        (drawnPolynomial s.coef 0 ((useful s.taken).take (k.toNat - 1))) s.xs k.toNat m.toNat),
      coef := Memory.zero } .ok) := by
  simp only [exec, execGensub, (checkPlayers_none_iff k m).2 ⟨hk, hm⟩, count,
    drawCoeffs_of_enough hdraws]
  rfl

/-- Settles O30: the subshares of the drawn polynomial with constant term 0x00. -/
theorem gensubWritesZeroConstantShares : Obligations.GensubWritesZeroConstantShares := by
  unfold Obligations.GensubWritesZeroConstantShares
  intro s k m hwf hbuilt hk hm hdraws
  have hcoef : s.coef.wf = true := State.mem_wf hwf .coef
  have hsub : s.sub.wf = true := State.mem_wf hwf .sub
  refine ⟨_, _, exec_gensub_of_le hk hm hdraws, fun i => ⟨Memory.read_zero i, ?_⟩⟩
  rw [← horner_congr fun j => item_drawnPolynomial hcoef hk 0 hdraws, subshares,
    Memory.read_writeSeq_range hsub, entry_toNat, State.tables_eq_of_built hbuilt,
    polyEval_builtTables]

/-! ### COMBINE -/

theorem foldr_xor_eq (bs : List Byte) (y : Byte) :
    bs.foldr (· ^^^ ·) y = y ^^^ bs.foldr (· ^^^ ·) 0 := by
  induction bs with
  | nil => exact BitVec.xor_zero.symm
  | cons b bs ih =>
    rw [List.foldr_cons, List.foldr_cons, ih]
    ac_rfl

theorem sumOf_succ (mem : Memory) (n : Nat) : sumOf mem (n + 1) = sumOf mem n ^^^ item mem n := by
  rw [sumOf, List.range_succ, List.map_append, List.foldr_append, foldr_xor_eq]
  simp [sumOf, BitVec.xor_comm]

/-- COMBINE's loop adds the sum of the subshares (R94). -/
theorem foldSubshares_eq (sub : Memory) (y : Byte) (n : Nat) :
    foldSubshares sub y n = y ^^^ sumOf sub n := by
  induction n with
  | zero => exact BitVec.xor_zero.symm
  | succ n ih =>
    rw [foldSubshares, ih, sumOf_succ, gfAdd, BitVec.xor_assoc]
    rfl

/-- Settles O31: the check passes, and the loop adds the subshares to y. -/
theorem combineAddsTheSubshares : Obligations.CombineAddsTheSubshares := by
  unfold Obligations.CombineAddsTheSubshares
  intro s x y n hn
  simp only [exec, execCombine, checkSubshares, if_neg hn, foldSubshares_eq]
  rfl

end Sys2Proof.Machine
end

section
/-! RECON is Lagrange interpolation at 0: over distinct abscissas it gives the constant term of the one
polynomial through the shares, and a repeated abscissa makes it fail (42_interpolation.md R91). -/

namespace Sys2Proof.Machine

open Sys2Proof.Claims

/-! ### The model's loops in the field -/

section Naming

variable {F : Type} [Field F] {φ : Byte ≃ F} (h : NamesField φ) {xs ys : Memory} {k : Nat}

/-- The factor of share `j` in the weight of share `i`, in the field. -/
def weightFactor (φ : Byte ≃ F) (xs : Memory) (i j : Nat) : F :=
  if j = i then 1 else φ (item xs j) / (φ (item xs j) - φ (item xs i))

include h

theorem NamesField.exists_gfDiv (a : Byte) {b : Byte} (hb : b ≠ 0) :
    ∃ q, gfDiv builtTables a b = .ok q ∧ φ q = φ a / φ b := by
  obtain ⟨q, hq, hprod⟩ := exists_gfDiv_builtTables a hb
  have hb' : φ b ≠ 0 := fun hzero => hb (φ.injective (hzero.trans h.map_zero.symm))
  exact ⟨q, hq, eq_div_of_mul_eq hb' (by rw [mul_comm, ← h.map_rpMul, hprod])⟩

/-- Where no other abscissa equals that of share `i`, its weight is the product of its factors. -/
theorem NamesField.exists_lagrangeWeight {i : Nat}
    (hne : ∀ j, j < k → j ≠ i → item xs j ≠ item xs i) :
    ∃ l, lagrangeWeight builtTables xs i k = .ok l ∧
      φ l = ∏ j ∈ Finset.range k, weightFactor φ xs i j := by
  induction k with
  | zero => exact ⟨1, rfl, h.map_one⟩
  | succ j ih =>
    obtain ⟨l, hl, hprod⟩ := ih fun j' hj' => hne j' (Nat.lt_succ_of_lt hj')
    simp only [lagrangeWeight, hl, Finset.prod_range_succ, ← hprod]
    by_cases hji : j = i
    · exact ⟨l, by rw [if_pos hji], by rw [weightFactor, if_pos hji, mul_one]⟩
    · have hdiff : gfSub (item xs j) (item xs i) ≠ 0 := fun hzero =>
        hne j (Nat.lt_succ_self j) hji (BitVec.xor_eq_zero_iff.1 hzero)
      obtain ⟨q, hq, hquot⟩ := h.exists_gfDiv (item xs j) hdiff
      refine ⟨rpMul l q, ?_, ?_⟩
      · rw [if_neg hji, ← gfMul_builtTables]
        simp only [item] at hq
        simp only [entry, hq]
      · rw [h.map_rpMul, hquot, weightFactor, if_neg hji, gfSub, h.map_xor_eq_sub]

/-- Over distinct abscissas the loop of RECON adds up weighted values. -/
theorem NamesField.exists_interpolate (hdist : distinct xs k) {n : Nat} (hn : n ≤ k) :
    ∃ y, interpolate builtTables xs ys k n = .ok y ∧
      φ y = ∑ i ∈ Finset.range n, φ (item ys i) * ∏ j ∈ Finset.range k, weightFactor φ xs i j := by
  induction n with
  | zero => exact ⟨0, rfl, h.map_zero⟩
  | succ i ih =>
    obtain ⟨y, hy, hsum⟩ := ih (by omega)
    have hne : ∀ j, j < k → j ≠ i → item xs j ≠ item xs i := fun j hj hji => by
      rcases Nat.lt_or_gt_of_ne hji with hlt | hgt
      · exact hdist j i hlt hn
      · exact (hdist i j hgt hj).symm
    obtain ⟨l, hl, hprod⟩ := h.exists_lagrangeWeight hne
    refine ⟨y ^^^ rpMul (item ys i) l, ?_, ?_⟩
    · simp only [interpolate, hy, hl, gfAdd, gfMul_builtTables]
      rfl
    · rw [h.map_xor, h.map_rpMul, hsum, hprod, Finset.sum_range_succ]

end Naming

/-! ### Lagrange's polynomial -/

open Polynomial

theorem injOn_of_distinct {G : Type} (φ : Byte ≃ G) {xs : Memory} {k : Nat}
    (hdist : distinct xs k) : Set.InjOn (fun i => φ (item xs i)) (Finset.range k : Set Nat) := by
  intro i hi j hj hij
  rw [Finset.mem_coe, Finset.mem_range] at hi hj
  have hitem := φ.injective hij
  rcases Nat.lt_trichotomy i j with hlt | heq | hlt
  · exact absurd hitem (hdist i j hlt hj)
  · exact heq
  · exact absurd hitem.symm (hdist j i hlt hi)

section Lagrange

variable {F : Type} [Field F] {φ : Byte ≃ F} (h : NamesField φ) {xs ys : Memory} {k : Nat}

/-- The polynomial of degree below `k` through the first `k` shares. -/
noncomputable def sharePoly (φ : Byte ≃ F) (xs ys : Memory) (k : Nat) : F[X] :=
  Lagrange.interpolate (Finset.range k) (fun i => φ (item xs i)) fun i => φ (item ys i)

/-- The polynomial whose coefficients are bytes. -/
noncomputable def bytePoly (φ : Byte ≃ F) (c : Nat → Byte) (k : Nat) : F[X] :=
  ∑ j : Fin k, C (φ (c j)) * X ^ (j : Nat)

/-- At 0 the polynomial through the shares has the value that RECON adds up. -/
theorem eval_zero_sharePoly :
    (sharePoly φ xs ys k).eval 0 = ∑ i ∈ Finset.range k,
      φ (item ys i) * ∏ j ∈ Finset.range k, weightFactor φ xs i j := by
  rw [sharePoly, Lagrange.interpolate_apply, eval_finsetSum]
  refine Finset.sum_congr rfl fun i _ => ?_
  have hself : weightFactor φ xs i i = 1 := if_pos rfl
  rw [eval_mul, eval_C, Lagrange.basis, eval_prod, ← Finset.prod_erase _ hself]
  congr 1
  refine Finset.prod_congr rfl fun j hj => ?_
  rw [weightFactor, if_neg (Finset.ne_of_mem_erase hj), Lagrange.basisDivisor]
  simp only [eval_mul, eval_C, eval_sub, eval_X, zero_sub]
  rw [div_eq_mul_inv, mul_comm, ← neg_sub (φ (item xs i)), inv_neg, mul_neg, neg_mul]

theorem eval_zero_bytePoly (c : Nat → Byte) (hk : k ≠ 0) : (bytePoly φ c k).eval 0 = φ (c 0) := by
  obtain ⟨k, rfl⟩ := Nat.exists_eq_succ_of_ne_zero hk
  simp [bytePoly, eval_finsetSum, Fin.sum_univ_succ]

include h

theorem NamesField.eval_bytePoly (c : Nat → Byte) (x : Byte) :
    (bytePoly φ c k).eval (φ x) = φ (horner c k x) := by
  rw [h.map_horner, bytePoly, eval_finsetSum, Finset.sum_range]
  simp

/-- A polynomial of `k` coefficients through the shares is the interpolated one. -/
theorem NamesField.bytePoly_eq_sharePoly (hdist : distinct xs k) {c : Nat → Byte}
    (hc : ∀ i, i < k → horner c k (item xs i) = item ys i) :
    bytePoly φ c k = sharePoly φ xs ys k := by
  refine Lagrange.eq_interpolate_of_eval_eq _ (injOn_of_distinct φ hdist) ?_ fun i hi => ?_
  · rw [Finset.card_range]
    exact degree_sum_fin_lt _
  · rw [h.eval_bytePoly, hc i (Finset.mem_range.1 hi)]

/-- The interpolated polynomial has `k` coefficients, and goes through the shares. -/
theorem NamesField.exists_through_shares (hdist : distinct xs k) (hk : k ≠ 0) :
    ∃ c : Nat → Byte, ∀ i, i < k → horner c k (item xs i) = item ys i := by
  have hinj := injOn_of_distinct φ hdist
  have hdeg : (sharePoly φ xs ys k).natDegree < k := by
    have hlt := Lagrange.degree_interpolate_lt (fun i => φ (item ys i)) hinj
    rw [Finset.card_range] at hlt
    by_cases hzero : sharePoly φ xs ys k = 0
    · rw [hzero, natDegree_zero]
      exact Nat.pos_of_ne_zero hk
    · exact (natDegree_lt_iff_degree_lt hzero).2 hlt
  refine ⟨fun j => φ.symm ((sharePoly φ xs ys k).coeff j), fun i hi => φ.injective ?_⟩
  rw [h.map_horner]
  simp only [Equiv.apply_symm_apply]
  rw [← eval_eq_sum_range' hdeg]
  exact Lagrange.eval_interpolate_at_node _ hinj (Finset.mem_range.2 hi)

end Lagrange

/-! ### RECON -/

/-- Over distinct abscissas RECON's loop gives the constant term of every polynomial of `k` coefficients
through the shares, and there is one (R91). -/
theorem interpolate_constantTerm {xs ys : Memory} {k : Nat} (hk : k ≠ 0) (hdist : distinct xs k) :
    ∃ y, interpolate builtTables xs ys k k = .ok y ∧
      (∀ c : Nat → Byte, (∀ i, i < k → horner c k (item xs i) = item ys i) → c 0 = y) ∧
      ∃ c : Nat → Byte, ∀ i, i < k → horner c k (item xs i) = item ys i := by
  obtain ⟨F, _, φ, h⟩ := exists_namesField
  obtain ⟨y, hy, hsum⟩ := h.exists_interpolate (ys := ys) hdist (Nat.le_refl k)
  refine ⟨y, hy, fun c hc => φ.injective ?_, h.exists_through_shares hdist hk⟩
  rw [hsum, ← eval_zero_sharePoly, ← h.bytePoly_eq_sharePoly hdist hc, eval_zero_bytePoly c hk]

theorem exec_recon_of_ok {s : State} {k m y : Byte} (hbuilt : s.tablesBuilt) (hk : k ≠ 0)
    (hm : k.toNat ≤ m.toNat) (hy : interpolate builtTables s.xs s.ys k.toNat k.toNat = .ok y) :
    exec (.recon k m) s = .next (withResult s 0 y) := by
  simp only [exec, execRecon, (checkShares_none_iff k m).2 ⟨hk, hm⟩, State.tables_eq_of_built hbuilt,
    count, hy]
  rfl

theorem toNat_ne_zero {k : Byte} (hk : k ≠ 0) : k.toNat ≠ 0 := (count_pos k hk).ne'

/-- Settles O27: RECON is the interpolation, once its checks have passed. -/
theorem reconGivesTheConstantTerm : Obligations.ReconGivesTheConstantTerm := by
  unfold Obligations.ReconGivesTheConstantTerm
  intro s k m hbuilt hk hm hdist
  obtain ⟨y, hy, hconst⟩ := interpolate_constantTerm (ys := s.ys) (toNat_ne_zero hk) hdist
  exact ⟨y, exec_recon_of_ok hbuilt hk hm hy, hconst⟩

/-- RECON gives the constant term of a polynomial through the shares. -/
theorem exec_recon_of_polynomial {s : State} {k m : Byte} (hbuilt : s.tablesBuilt) (hk : k ≠ 0)
    (hm : k.toNat ≤ m.toNat) (hdist : distinct s.xs k.toNat) {c : Nat → Byte}
    (hc : ∀ i, i < k.toNat → horner c k.toNat (item s.xs i) = item s.ys i) :
    exec (.recon k m) s = .next (withResult s 0 (c 0)) := by
  obtain ⟨y, hexec, hconst, -⟩ := reconGivesTheConstantTerm s k m hbuilt hk hm hdist
  rw [hexec, hconst c hc]

/-- Settles O28: the polynomial through the shares has at 0 both its constant term and that share's
y. -/
theorem reconAtAZeroAbscissa : Obligations.ReconAtAZeroAbscissa := by
  unfold Obligations.ReconAtAZeroAbscissa
  intro s k m i hbuilt hk hm hdist hi hzero
  obtain ⟨y, -, -, c, hc⟩ := interpolate_constantTerm (ys := s.ys) (toNat_ne_zero hk) hdist
  rw [exec_recon_of_polynomial hbuilt hk hm hdist hc, ← hc i hi, hzero,
    horner_at_zero c (toNat_ne_zero hk)]

/-! ### The round trip (R92) -/

/-- Shares i + 1 of a polynomial, picked by `f` without repetition, give its constant term. -/
theorem exec_recon_of_picked {t u : State} {k n : Byte} {f : Nat → Nat} {c : Nat → Byte}
    (hbuilt : u.tablesBuilt) (hk : k ≠ 0) (hf : ∀ i, i < k.toNat → f i < n.toNat)
    (hinj : ∀ i j, i < j → j < k.toNat → f i ≠ f j)
    (hcopy : ∀ i, i < k.toNat → item u.xs i = item t.xs (f i) ∧ item u.ys i = item t.ys (f i))
    (hshares : ∀ j, j < n.toNat → item t.xs j = BitVec.ofNat 8 (j + 1) ∧
      item t.ys j = horner c k.toNat (BitVec.ofNat 8 (j + 1))) :
    exec (.recon k k) u = .next (withResult u 0 (c 0)) := by
  have hx : ∀ i, i < k.toNat → item u.xs i = BitVec.ofNat 8 (f i + 1) := fun i hi =>
    (hcopy i hi).1.trans (hshares (f i) (hf i hi)).1
  refine exec_recon_of_polynomial hbuilt hk (Nat.le_refl _) (fun i j hij hj heq => ?_) fun i hi => ?_
  · have hn := n.isLt
    have hi := hf i (hij.trans hj)
    have hj' := hf j hj
    rw [hx i (hij.trans hj), hx j hj, ← BitVec.toNat_inj, BitVec.toNat_ofNat, BitVec.toNat_ofNat] at heq
    exact hinj i j hij hj (by omega)
  · obtain ⟨-, hy⟩ := hcopy i hi
    obtain ⟨-, hvalue⟩ := hshares (f i) (hf i hi)
    rw [hx i hi, hy, hvalue]

/-- The shares written by EVSH or GENSH, by number. -/
theorem item_writeShares {s : State} (hwf : s.memoriesWf = true) (hbuilt : s.tablesBuilt)
    (coef : Memory) (k n : Byte) {j : Nat} (hj : j < n.toNat) :
    item (s.writeShares coef k.toNat n.toNat).xs j = BitVec.ofNat 8 (j + 1) ∧
    item (s.writeShares coef k.toNat n.toNat).ys j =
      horner (item coef) k.toNat (BitVec.ofNat 8 (j + 1)) := by
  have hentry : (entry j).toNat = j := toNat_entry (hj.trans n.isLt)
  have hread := read_writeShares hwf hbuilt coef k n (entry j)
  rwa [hentry, if_pos hj, if_pos hj, ← abscissa_toNat, hentry] at hread

/-- Settles O29: both commands write the shares of a polynomial, of COEF or the drawn one. -/
theorem anyKSharesReconstructTheSecret : Obligations.AnyKSharesReconstructTheSecret := by
  unfold Obligations.AnyKSharesReconstructTheSecret
  intro s t u k n secret f hwf hs hu hk hn hf hinj hcopy
  refine ⟨fun hexec => ?_, fun hdraws hexec => ?_⟩
  · obtain rfl := Host.Outcome.next.inj ((exec_evsh_of_le hk hn).symm.trans hexec)
    exact exec_recon_of_picked (c := item s.coef) hu hk hf hinj hcopy fun j =>
      item_writeShares hwf hs s.coef k n
  · obtain rfl := Host.Outcome.next.inj ((exec_gensh_of_le hk hn hdraws secret).symm.trans hexec)
    have hcoef : s.coef.wf = true := State.mem_wf hwf .coef
    have hconst := item_drawnPolynomial hcoef hk secret hdraws (count_pos k hk)
    have hrecon := exec_recon_of_picked (c := item _) hu hk hf hinj hcopy fun j =>
      item_writeShares hwf hs _ k n
    rw [hrecon, hconst]
    rfl

/-! ### Renewal (43_renewal.md R95, R96) -/

/-- The coefficients of a polynomial plus others, added up. -/
def addPolynomials (c : Nat → Byte) (qs : List (Nat → Byte)) (j : Nat) : Byte :=
  (qs.map fun q => q j).foldr (· ^^^ ·) (c j)

theorem horner_addPolynomials (c : Nat → Byte) (qs : List (Nat → Byte)) (k : Nat) (x : Byte) :
    horner (addPolynomials c qs) k x =
      (qs.map fun q => horner q k x).foldr (· ^^^ ·) (horner c k x) := by
  induction qs with
  | nil => rfl
  | cons q qs ih =>
    rw [List.map_cons, List.foldr_cons, ← ih, ← horner_xor]
    rfl

/-- Polynomials with constant term zero leave the constant term. -/
theorem addPolynomials_zero (c : Nat → Byte) {qs : List (Nat → Byte)} (hqs : ∀ q ∈ qs, q 0 = 0) :
    addPolynomials c qs 0 = c 0 := by
  induction qs with
  | nil => rfl
  | cons q qs ih =>
    have htail : addPolynomials c qs 0 = c 0 := ih fun r hr => hqs r (List.mem_cons_of_mem q hr)
    rw [addPolynomials, List.map_cons, List.foldr_cons, hqs q List.mem_cons_self]
    exact BitVec.zero_xor.trans htail

/-- Settles O32: the renewed shares are those of the sum, whose constant term is the old one. -/
theorem renewalPreservesTheSecret : Obligations.RenewalPreservesTheSecret := by
  unfold Obligations.RenewalPreservesTheSecret
  intro s k c qs hbuilt hk hdist hqs hshares
  rw [← addPolynomials_zero c hqs]
  refine exec_recon_of_polynomial hbuilt hk (Nat.le_refl _) hdist fun i hi => ?_
  rw [horner_addPolynomials, hshares i hi]

/-- The subshares that GENSUB leaves, by number. -/
theorem item_gensub {g g' : State} {k n : Byte} (hwf : g.memoriesWf = true) (hbuilt : g.tablesBuilt)
    (hk : k ≠ 0) (hn : k.toNat ≤ n.toNat) (hdraws : k.toNat - 1 ≤ (useful g.taken).length)
    (hexec : exec (.gensub k n) g = .next g') {i : Nat} (hi : i < n.toNat) :
    item g'.sub i = horner (drawn 0 g.taken) k.toNat (item g.xs i) := by
  obtain ⟨sub, coef, hnext, hentries⟩ :=
    gensubWritesZeroConstantShares g k n hwf hbuilt hk hn hdraws
  obtain rfl := Host.Outcome.next.inj (hnext.symm.trans hexec)
  have hentry : (entry i).toNat = i := toNat_entry (hi.trans n.isLt)
  obtain ⟨-, hsub⟩ := hentries (entry i)
  rwa [hentry, if_pos hi] at hsub

/-- Settles O54: the renewed share of player i is its old one plus the values of every player's drawn
polynomial, whose constant term is 0x00. -/
theorem renewalEpochPreservesTheSecret : Obligations.RenewalEpochPreservesTheSecret := by
  unfold Obligations.RenewalEpochPreservesTheSecret
  intro k n x y c g g' h h' u f hk hn hbuilt hplayers hold hcombine hcopy hdist
  have hn0 : n ≠ 0 := by
    rintro rfl
    exact absurd hn (Nat.not_le_of_gt (count_pos k hk))
  refine renewalPreservesTheSecret u k c ((List.range n.toNat).map fun p => drawn 0 (g p).taken)
    hbuilt hk hdist (fun q hq => ?_) fun i hi => ?_
  · obtain ⟨p, -, rfl⟩ := List.mem_map.1 hq
    rfl
  · obtain ⟨hf, hxs, hys⟩ := hcopy i hi
    obtain ⟨hsubs, hexec⟩ := hcombine (f i) hf
    obtain hh' := Host.Outcome.next.inj
      ((combineAddsTheSubshares (h (f i)) (x (f i)) (y (f i)) n hn0).symm.trans hexec)
    have hvalues : ∀ p ∈ List.range n.toNat,
        item (h (f i)).sub p = horner (drawn 0 (g p).taken) k.toNat (x (f i)) := fun p hp => by
      have hp' := List.mem_range.1 hp
      obtain ⟨hwf, hg, hdraws, habscissas, hgensub⟩ := hplayers p hp'
      rw [hsubs p hp', item_gensub hwf hg hk hn hdraws hgensub hf, habscissas _ hf]
    rw [hys, hxs, ← hh', foldr_xor_eq, ← hold _ hf, List.map_map, sumOf, List.map_congr_left hvalues]
    rfl

end Sys2Proof.Machine
end

section
/-! Frames and failures: what each command leaves as it was (10_state.md R24), and with which code each
fails (60_exceptions.md R98, R101). -/

namespace Sys2Proof.Machine

open Sys2Proof.Claims

variable {s t : State} {i : Instr}

/-! ### Frames -/

/-- No completion touches CTRL, OVR, the pending events or the response held. -/
theorem exec_frame (h : exec i s = .next t) :
    t.ie = s.ie ∧ t.ovr = s.ovr ∧ t.events = s.events ∧ t.resp = s.resp := by
  rcases exec_cases i s with ⟨e, he⟩ | he | ⟨x, y, c, xs, ys, b, he, -⟩ <;>
    obtain rfl := Host.Outcome.next.inj (h.symm.trans he) <;>
    exact ⟨rfl, rfl, rfl, rfl⟩

/-- A command that writes no memory completes or fails with every memory and table as it was. -/
theorem exec_mem_of_storesNothing (hi : storesNothing i = true) (h : exec i s = .next t)
    (m : MemId) : t.mem m = s.mem m := by
  cases i with
  | nop | add | sub | mul | pow | exp | log =>
    obtain rfl := Host.Outcome.next.inj h
    cases m <;> rfl
  | div | peval | recon | combine =>
    simp only [exec, execDiv, execPeval, execRecon, execCombine] at h
    repeat' split at h
    all_goals
      obtain rfl := Host.Outcome.next.inj h
      cases m <;> rfl
  | genpoly | evsh | gensh | gensub => contradiction

/-- Settles O17: the memories by command, the registers by the frame of every completion. -/
theorem resultCommandsLeaveTheMemories : Obligations.ResultCommandsLeaveTheMemories := by
  unfold Obligations.ResultCommandsLeaveTheMemories
  intro i s t hi h
  obtain ⟨hie, hovr, hevents, hresp⟩ := exec_frame h
  refine ⟨fun m a => by rw [exec_mem_of_storesNothing hi h m], hie, hovr, hevents, hresp, ?_⟩
  rintro rfl
  exact exec_result_of_not_writesResult rfl h

/-- A run of writes from entry 0 leaves the entries at and above its length. -/
theorem Memory.read_writeSeq_of_ge {mem : Memory} (hwf : mem.wf = true) {vs : List Byte} {n a : Byte}
    (hlen : vs.length = n.toNat) (ha : ¬ a.toNat < n.toNat) :
    (mem.writeSeq 0 vs).read a = mem.read a := by
  rw [Memory.read_writeSeq_zero hwf (hlen ▸ n.isLt.le), if_neg (hlen ▸ ha)]

theorem State.mem_failWith (s : State) (e : ErrCode) (m : MemId) : (s.failWith e).mem m = s.mem m := by
  cases m <;> rfl

section Storing

variable {k n secret : Byte} {m : MemId} {a : Byte} (hwf : s.memoriesWf = true)
include hwf

theorem genpoly_read_of_not_storesTo (h : exec (.genpoly k secret) s = .next t)
    (ha : ¬ storesTo (.genpoly k secret) m a) : (t.mem m).read a = (s.mem m).read a := by
  simp only [exec, execGenpoly] at h
  split at h
  case h_1 =>
    obtain rfl := Host.Outcome.next.inj h
    rw [State.mem_failWith]
  case h_2 hk =>
    have hpos := count_pos k ((checkK_none_iff k).1 hk)
    split at h <;> obtain rfl := Host.Outcome.next.inj h
    case h_1 => rfl
    case h_2 cs hcs =>
      have hlen : (secret :: cs).length = k.toNat := by
        rw [List.length_cons, length_of_drawCoeffs _ _ _ hcs]
        exact Nat.sub_add_cancel hpos
      cases m with
      | coef => exact Memory.read_writeSeq_of_ge (State.mem_wf hwf .coef) hlen ha
      | _ => rfl

/-- Share generation leaves the entries of XS and YS from `n` on, and the other memories. -/
theorem read_writeShares_of_ge (coef : Memory) (k : Nat)
    (ha : m = .xs ∨ m = .ys → ¬ a.toNat < n.toNat) :
    ((s.writeShares coef k n.toNat).mem m).read a = (s.mem m).read a := by
  cases m with
  | xs =>
    exact Memory.read_writeSeq_of_ge (State.mem_wf hwf .xs) (length_abscissas _) (ha (.inl rfl))
  | ys =>
    refine Memory.read_writeSeq_of_ge (State.mem_wf hwf .ys) ?_ (ha (.inr rfl))
    rw [List.length_map, length_abscissas]
  | _ => rfl

theorem evsh_read_of_not_storesTo (h : exec (.evsh k n) s = .next t)
    (ha : ¬ storesTo (.evsh k n) m a) : (t.mem m).read a = (s.mem m).read a := by
  simp only [exec, execEvsh] at h
  split at h <;> obtain rfl := Host.Outcome.next.inj h
  · rw [State.mem_failWith]
  · refine read_writeShares_of_ge hwf s.coef (count k) ?_
    rintro (rfl | rfl) <;> exact ha

theorem gensh_read_of_not_storesTo (h : exec (.gensh k n secret) s = .next t)
    (ha : ¬ storesTo (.gensh k n secret) m a) : (t.mem m).read a = (s.mem m).read a := by
  simp only [exec, execGensh] at h
  split at h
  case h_1 =>
    obtain rfl := Host.Outcome.next.inj h
    rw [State.mem_failWith]
  case h_2 =>
    split at h <;> obtain rfl := Host.Outcome.next.inj h
    case h_1 => rfl
    case h_2 cs hcs =>
      have hshares := read_writeShares_of_ge hwf (m := m) (n := n) (a := a)
        (drawnPolynomial s.coef secret cs) (count k)
      cases m with
      | coef => exact absurd trivial ha
      | xs | ys => exact hshares fun _ => ha
      | _ => rfl

theorem gensub_read_of_not_storesTo (h : exec (.gensub k n) s = .next t)
    (ha : ¬ storesTo (.gensub k n) m a) : (t.mem m).read a = (s.mem m).read a := by
  simp only [exec, execGensub] at h
  split at h
  · obtain rfl := Host.Outcome.next.inj h
    rw [State.mem_failWith]
  · split at h <;> obtain rfl := Host.Outcome.next.inj h
    · rfl
    · cases m with
      | coef => exact absurd trivial ha
      | sub => exact Memory.read_writeSeq_of_ge (State.mem_wf hwf .sub) (length_subshares _ _ _ _ _) ha
      | _ => rfl

end Storing

/-- Settles O18: the memories by command, the registers by the frame of every completion. -/
theorem storingCommandsLeaveOtherEntries : Obligations.StoringCommandsLeaveOtherEntries := by
  unfold Obligations.StoringCommandsLeaveOtherEntries
  intro i s t hi hwf h
  obtain ⟨hie, hovr, hevents, hresp⟩ := exec_frame h
  have hresult : t.rx = s.rx ∧ t.ry = s.ry := by
    refine exec_result_of_not_writesResult ?_ h
    cases i with
    | genpoly | evsh | gensh | gensub => rfl
    | _ => contradiction
  refine ⟨fun m a ha => ?_, hresult.1, hresult.2, hie, hovr, hevents, hresp⟩
  cases i with
  | genpoly => exact genpoly_read_of_not_storesTo hwf h ha
  | evsh => exact evsh_read_of_not_storesTo hwf h ha
  | gensh => exact gensh_read_of_not_storesTo hwf h ha
  | gensub => exact gensub_read_of_not_storesTo hwf h ha
  | _ => contradiction

/-! ### The operand checks (R101) -/

section Checks

variable {k n : Byte} {e : ErrCode}

theorem checkK_eq_some_iff : checkK k = some e ↔ k = 0 ∧ e = .invalidThreshold := by
  unfold checkK
  split_ifs with hk
  · rw [Option.some.injEq, eq_comm, and_iff_right hk]
  · simp only [hk, false_and]

theorem checkSubshares_eq_some_iff :
    checkSubshares n = some e ↔ n = 0 ∧ e = .emptySubshareSet := by
  unfold checkSubshares
  split_ifs with hn
  · rw [Option.some.injEq, eq_comm, and_iff_right hn]
  · simp only [hn, false_and]

theorem checkShares_eq_some_iff : checkShares k n = some e ↔
    (k = 0 ∧ e = .invalidThreshold) ∨ (k ≠ 0 ∧ n.toNat < k.toNat ∧ e = .insufficientShares) := by
  unfold checkShares count
  split_ifs with hk hlt
  · simp only [Option.some.injEq, hk, ne_eq, not_true_eq_false, true_and, false_and, or_false]
    exact eq_comm
  · simp only [Option.some.injEq, hk, hlt, ne_eq, not_false_eq_true, true_and, false_and, false_or]
    exact eq_comm
  · simp only [hk, hlt, false_and, and_false, or_self]

/-- The check of k against a count, whose code `c` for a count too small is the command's own. -/
def checkAgainst (c : ErrCode) (k n : Byte) : Option ErrCode :=
  if k = 0 ∨ n = 0 then some .invalidThreshold else if count n < count k then some c else none

theorem checkAgainst_eq_some_iff (c : ErrCode) : checkAgainst c k n = some e ↔
    ((k = 0 ∨ n = 0) ∧ e = .invalidThreshold) ∨ (k ≠ 0 ∧ n ≠ 0 ∧ n.toNat < k.toNat ∧ e = c) := by
  unfold checkAgainst count
  rw [← and_assoc (a := k ≠ 0), ne_eq, ne_eq, ← not_or]
  split_ifs with hzero hlt
  · simp only [Option.some.injEq, hzero, not_true_eq_false, true_and, false_and, or_false]
    exact eq_comm
  · simp only [Option.some.injEq, hzero, hlt, not_false_eq_true, true_and, false_and, false_or]
    exact eq_comm
  · simp only [hzero, hlt, false_and, and_false, or_self]

theorem checkKn_eq : checkKn k n = checkAgainst .thresholdExceedsShareCount k n := rfl

theorem checkPlayers_eq : checkPlayers k n = checkAgainst .tooFewPlayers k n := rfl

end Checks

/-! ### RECON's division by zero (42_interpolation.md R91) -/

theorem gfDiv_spec (t : Tables) (a b : Byte) :
    (∀ e, gfDiv t a b = .error e → e = .divisionByZero) ∧ (∀ q, gfDiv t a b = .ok q → b ≠ 0) := by
  unfold gfDiv
  split_ifs with hb
  · exact ⟨fun e he => (Except.error.inj he).symm, nofun⟩
  · exact ⟨nofun, fun _ _ => hb⟩
  · exact ⟨nofun, fun _ _ => hb⟩

/-- A weight fails with DivisionByZero only, and is found only where no other abscissa equals that of
its share. -/
theorem lagrangeWeight_spec (t : Tables) (xs : Memory) (i n : Nat) :
    (∀ e, lagrangeWeight t xs i n = .error e → e = .divisionByZero) ∧
    (∀ l, lagrangeWeight t xs i n = .ok l → ∀ j, j < n → j ≠ i → item xs j ≠ item xs i) := by
  induction n with
  | zero => exact ⟨nofun, nofun⟩
  | succ n ih =>
    obtain ⟨herror, hok⟩ := ih
    rw [lagrangeWeight]
    cases hl : lagrangeWeight t xs i n with
    | error e => exact ⟨fun e' he => herror e' (hl.trans he), nofun⟩
    | ok l =>
      have hprev := hok l hl
      dsimp only
      split_ifs with hn
      · refine ⟨nofun, fun _ _ j hj hji => hprev j ?_ hji⟩
        omega
      · obtain ⟨hdivError, hdivOk⟩ :=
          gfDiv_spec t (xs.read (entry n)) (gfSub (xs.read (entry n)) (xs.read (entry i)))
        cases hq : gfDiv t (xs.read (entry n)) (gfSub (xs.read (entry n)) (xs.read (entry i))) with
        | error e => exact ⟨fun e' he => hdivError e' (hq.trans he), nofun⟩
        | ok q =>
          refine ⟨nofun, fun _ _ j hj hji heq => ?_⟩
          rcases Nat.lt_succ_iff_lt_or_eq.1 hj with hlt | rfl
          · exact hprev j hlt hji heq
          · exact hdivOk q hq (BitVec.xor_eq_zero_iff.2 heq)

/-- The loop of RECON fails with DivisionByZero only, and ends only where the abscissas it has weighed
occur once. -/
theorem interpolate_spec (t : Tables) (xs ys : Memory) (k n : Nat) :
    (∀ e, interpolate t xs ys k n = .error e → e = .divisionByZero) ∧
    (∀ y, interpolate t xs ys k n = .ok y →
      ∀ i, i < n → ∀ j, j < k → j ≠ i → item xs j ≠ item xs i) := by
  induction n with
  | zero => exact ⟨nofun, nofun⟩
  | succ n ih =>
    obtain ⟨herror, hok⟩ := ih
    obtain ⟨hweightError, hweightOk⟩ := lagrangeWeight_spec t xs n k
    rw [interpolate]
    cases hy : interpolate t xs ys k n with
    | error e => exact ⟨fun e' he => herror e' (hy.trans he), nofun⟩
    | ok y =>
      cases hl : lagrangeWeight t xs n k with
      | error e => exact ⟨fun e' he => hweightError e' (hl.trans he), nofun⟩
      | ok l =>
        refine ⟨nofun, fun _ _ i hi => ?_⟩
        rcases Nat.lt_succ_iff_lt_or_eq.1 hi with hlt | rfl
        · exact hok y hy i hlt
        · exact hweightOk l hl

/-- A repeated abscissa makes RECON's loop fail with DivisionByZero. -/
theorem interpolate_of_not_distinct {xs : Memory} {k : Nat} (h : ¬ distinct xs k) (t : Tables)
    (ys : Memory) : interpolate t xs ys k k = .error .divisionByZero := by
  obtain ⟨herror, hok⟩ := interpolate_spec t xs ys k k
  cases hy : interpolate t xs ys k k with
  | error e => rw [herror e hy]
  | ok y =>
    exact absurd (fun p q hpq hq => hok y hy q hq p (hpq.trans hq) hpq.ne) h

/-! ### Failure and success (R98) -/

theorem exec_of_failsWith {e : ErrCode} (h : FailsWith s i e) :
    exec i s = .next (finished s e) := by
  cases i with
  | nop | add | sub | mul | pow | exp | log => exact h.elim
  | div a b =>
    obtain ⟨rfl, rfl⟩ := h
    exact exec_div_zero a s
  | genpoly =>
    simp only [exec, execGenpoly, checkK_eq_some_iff.2 h]
    rfl
  | peval =>
    simp only [exec, execPeval, checkK_eq_some_iff.2 h]
    rfl
  | evsh =>
    simp only [exec, execEvsh, checkKn_eq, (checkAgainst_eq_some_iff _).2 h]
    rfl
  | gensh =>
    simp only [exec, execGensh, checkKn_eq, (checkAgainst_eq_some_iff _).2 h]
    rfl
  | gensub =>
    simp only [exec, execGensub, checkPlayers_eq, (checkAgainst_eq_some_iff _).2 h]
    rfl
  | combine =>
    simp only [exec, execCombine, checkSubshares_eq_some_iff.2 h]
    rfl
  | recon k m =>
    rw [FailsWith, ← or_assoc, ← checkShares_eq_some_iff] at h
    rcases h with h | ⟨hk, hm, hrepeat, rfl⟩
    · simp only [exec, execRecon, h]
      rfl
    · simp only [exec, execRecon, (checkShares_none_iff k m).2 ⟨hk, hm⟩, count,
        interpolate_of_not_distinct hrepeat]
      rfl

/-- A command that none of the listed failures fits completes, once its draws are at hand. -/
theorem exec_of_not_failsWith (hbuilt : s.tablesBuilt) (h : ∀ e, ¬ FailsWith s i e)
    (hdraws : drawsNeeded i ≤ (useful s.taken).length) : ∃ u : State, exec i s = .next u.complete := by
  cases i with
  | nop | add | sub | mul | pow | exp | log => exact ⟨_, rfl⟩
  | div a b =>
    have hb : b ≠ 0 := fun hb => h _ ⟨hb, rfl⟩
    obtain ⟨q, hq, -⟩ := exists_gfDiv_builtTables a hb
    refine ⟨s.setResult 0 q, ?_⟩
    simp only [exec, execDiv, State.tables_eq_of_built hbuilt, hq]
    rfl
  | genpoly k secret =>
    have hk := fun hk => h _ ⟨hk, rfl⟩
    exact ⟨_, exec_genpoly_of_enough hk hdraws secret⟩
  | peval k x =>
    obtain ⟨hexec, -⟩ := pevalGivesThePolynomialValue s k x hbuilt fun hk => h _ ⟨hk, rfl⟩
    exact ⟨_, hexec⟩
  | evsh k n =>
    obtain ⟨hk, hn⟩ := (checkKn_none_iff k n).1
      (Option.eq_none_iff_forall_ne_some.2 fun e he => h e ((checkAgainst_eq_some_iff _).1 he))
    exact ⟨_, exec_evsh_of_le hk hn⟩
  | gensh k n secret =>
    obtain ⟨hk, hn⟩ := (checkKn_none_iff k n).1
      (Option.eq_none_iff_forall_ne_some.2 fun e he => h e ((checkAgainst_eq_some_iff _).1 he))
    rw [drawsNeeded, if_pos (show k.toNat ≤ n.toNat from hn)] at hdraws
    exact ⟨_, exec_gensh_of_le hk hn hdraws secret⟩
  | gensub k m =>
    obtain ⟨hk, hm⟩ := (checkPlayers_none_iff k m).1
      (Option.eq_none_iff_forall_ne_some.2 fun e he => h e ((checkAgainst_eq_some_iff _).1 he))
    rw [drawsNeeded, if_pos (show k.toNat ≤ m.toNat from hm)] at hdraws
    exact ⟨_, exec_gensub_of_le hk hm hdraws⟩
  | combine x y n =>
    exact ⟨_, combineAddsTheSubshares s x y n fun hn => h _ ⟨hn, rfl⟩⟩
  | recon k m =>
    obtain ⟨hk, hm⟩ := (checkShares_none_iff k m).1 (Option.eq_none_iff_forall_ne_some.2 fun e he =>
      h e (or_assoc.1 (.inl (checkShares_eq_some_iff.1 he))))
    have hdist : distinct s.xs k.toNat := by
      by_contra hrepeat
      exact h _ (.inr (.inr ⟨hk, hm, hrepeat, rfl⟩))
    obtain ⟨y, hexec, -⟩ := reconGivesTheConstantTerm s k m hbuilt hk hm hdist
    exact ⟨_, hexec⟩

/-- Settles O20: each listed condition makes its check fail, and where none holds every check passes. -/
theorem commandsFailExactlyAsListed : Obligations.CommandsFailExactlyAsListed := by
  unfold Obligations.CommandsFailExactlyAsListed
  refine fun i s hbuilt => ⟨fun e => exec_of_failsWith, fun hnone hdraws => ?_⟩
  obtain ⟨u, hexec⟩ := exec_of_not_failsWith hbuilt hnone hdraws
  exact ⟨_, hexec, rfl, rfl, rfl, rfl⟩

end Sys2Proof.Machine
end
